-- ==== Sys2Proof/Word.lean ====
section
/-!
DEFINITION. The link's words (section 2.1 of the manual): 16-bit words moved most significant bit first, and the
bytes a command word is made of. Positions, counts and lengths of the manual are exact whole numbers and stay `Nat`.
-/

namespace Sys2Proof

/-- One word of a link transfer. -/
abbrev Word := BitVec 16

/-- One byte of a command word: the code or the argument (R18). -/
abbrev Byte := BitVec 8

end Sys2Proof
end

