-- ==== Sys2Proof/Config.lean ====
section
/-!
DEFINITION. What is fixed for the part: the capacities and bounds the rules give, the codes of the commands, and the
one value the manual leaves open, as a constant without a body.
-/

namespace Sys2Proof.Config

/-- The greatest ribbon coordinate and the greatest travel count (R3, "The coordinate"). -/
def rcMax : Nat := 4294967295

/-- The greatest value of a 16-bit count. -/
def countMax : Nat := 65535

/-- Entries of the intake queue (R36). -/
def intakeCapacity : Nat := 64
/-- Records of the flaw map (R81). -/
def mapCapacity : Nat := 768
/-- Spans of the blind span list (R85). -/
def spanCapacity : Nat := 8
/-- Orders of the order list (R94). -/
def orderCapacity : Nat := 16
/-- Positions of the sample list (R111). -/
def sampleCapacity : Nat := 4
/-- Rows of the row table (R118). -/
def rowCapacity : Nat := 18
/-- ISSUED entries of the cut queue (R136, R140). -/
def issuedMax : Nat := 2
/-- Pieces waiting in the close queue (R153). -/
def closeCapacity : Nat := 4
/-- Entries of the routing list (R148). -/
def routingCapacity : Nat := 32
/-- Entries of the plate log (R167). -/
def logCapacity : Nat := 64
/-- Flaws listed in a plate log entry (R167). -/
def flawListMax : Nat := 6
/-- Reports of the report store (R178). -/
def reportCapacity : Nat := 4
/-- Settle count of a settled reference (R53). -/
def settledCount : Nat := 8
/-- Ticks without a pulse after which the line is stopped (R12). -/
def stoppedTicks : Nat := 2000
/-- Seconds of a day (R13). -/
def daySeconds : Nat := 86400
/-- Active time of RSTN, in nanoseconds, from which it is a reset: 2 µs (R188). -/
def resetPulseNs : Nat := 2000

/-- CLK periods of one tick for each clock select (the table of R11). The model counts ticks, not CLK periods (log 9). -/
def clkPeriodsPerTick : Nat → Nat
  | 0 => 8000
  | 1 => 10000
  | 2 => 16000
  | _ => 20000

/-- DESIGN CHOICE (log 12). The two words in which a quantity beyond 4,294,967,295 is sent. The manual sends such a
quantity in two words and states no value for them, so nothing is known of it. -/
opaque wideWords : Nat → Word × Word

end Sys2Proof.Config
end

