-- ==== Sys2Proof/Syntax.lean ====
section
/-!
DEFINITION. The commands: one constructor for each row of spec/opcode_table.json. A row that is a link command carries
the link it is sent on, its argument byte where the row leaves it free, and the rest of the transfer.
-/

namespace Sys2Proof

/-- The three links (chapter 2). -/
inductive Link
  | gantry
  | cutter
  | supervisor
  deriving DecidableEq, Repr

/-- What a transfer carries after its command word (R17, R18): the complete data words, and the number of bits shifted
in after the last complete word, which form the partial word the link discards. -/
structure Body where
  data : List Word
  tail : Nat
  deriving DecidableEq, Repr

/-- One command: a step of the table of operations. -/
inductive Instr
  /-- Supply is applied (R188). -/
  | powerOn
  /-- RSTN has been held active for `heldNs` nanoseconds (R188). -/
  | pinReset (heldNs : Nat)
  /-- The internal reset ends (R189). -/
  | internalResetEnd
  /-- A rising edge on ENC (R2). -/
  | encPulse
  /-- The CLK divider completes its count (R11). -/
  | tick
  /-- The last-pulse time has reached 2,000 ticks (R12). -/
  | stoppedSet
  /-- The time of day steps (R13). -/
  | timeStep
  /-- A raised deadline reaches the planner (R7, R120). -/
  | deadlineEvent
  /-- The decision completes (R122). -/
  | commit
  /-- A held commit is made (R122). -/
  | heldCommit
  /-- A raised expiry reaches the dispatcher (R146). -/
  | expiry
  /-- A transfer of fewer than sixteen bits (R17). -/
  | emptyTransfer (l : Link) (tail : Nat)
  /-- A command word whose code is not defined (R22). -/
  | unknownCommand (l : Link) (code arg : Byte) (b : Body)
  /-- NOP, 00h (R21). -/
  | nop (l : Link) (arg : Byte) (b : Body)
  /-- EVT, 01h (R30). -/
  | evt (l : Link) (arg : Byte) (b : Body)
  /-- MASK, 02h (R29). -/
  | mask (l : Link) (arg : Byte) (b : Body)
  /-- POS, 03h (R15). -/
  | pos (l : Link) (arg : Byte) (b : Body)
  /-- DET, 10h (R39). -/
  | det (l : Link) (arg : Byte) (b : Body)
  /-- BKG, 11h (R43). -/
  | bkg (l : Link) (arg : Byte) (b : Body)
  /-- MARK, 12h (R44). -/
  | mark (l : Link) (arg : Byte) (b : Body)
  /-- GAP, 13h (R45). -/
  | gap (l : Link) (arg : Byte) (b : Body)
  /-- GSTAT, 14h (R48). -/
  | gstat (l : Link) (arg : Byte) (b : Body)
  /-- The assembler takes the oldest intake entry (R37). -/
  | entryTake
  /-- A BACKGROUND entry completes (R52). -/
  | backgroundEntryComplete
  /-- A DETECTION entry completes (R59). -/
  | detectionEntryComplete
  /-- A MARK entry completes (R68). -/
  | markEntryComplete
  /-- A GAP entry completes (R69). -/
  | gapEntryComplete
  /-- TAKE, 20h (R140). -/
  | take (l : Link) (arg : Byte) (b : Body)
  /-- DONE, 21h, argument 0, or an argument above 1, which is refused (R141, R143; log 13). -/
  | doneOk (l : Link) (arg : Byte) (b : Body)
  /-- DONE, 21h, argument 1 (R144). -/
  | doneMissed (l : Link) (b : Body)
  /-- ROUTE, 22h (R149). -/
  | route (l : Link) (arg : Byte) (b : Body)
  /-- CSTAT, 23h (R150). -/
  | cstat (l : Link) (arg : Byte) (b : Body)
  /-- The grader takes the oldest piece (R153). -/
  | pieceTake
  /-- A CULL, HEAD or MERGED piece completes (R156). -/
  | cullPieceClose
  /-- A PRODUCT, SHORT or SAMPLE piece completes (R166). -/
  | platePieceClose
  /-- MODE, 30h, argument 3, or an argument above 3, which is refused (R181; log 13). -/
  | modeRead (l : Link) (arg : Byte) (b : Body)
  /-- MODE, 30h, argument 1 (R181). -/
  | modeRun (l : Link) (b : Body)
  /-- MODE, 30h, argument 2 (R181). -/
  | modeCull (l : Link) (b : Body)
  /-- MODE, 30h, argument 0 (R185). -/
  | modeSetup (l : Link) (b : Body)
  /-- RESTART, 41h (R186). -/
  | restart (l : Link) (arg : Byte) (b : Body)
  /-- TIME, 32h (R14). -/
  | time (l : Link) (arg : Byte) (b : Body)
  /-- SHIFTS, 33h, argument 0 (R174). -/
  | shiftsWrite (l : Link) (b : Body)
  /-- SHIFTS, 33h, argument 1, or an argument above 1, which is refused (R174; log 13). -/
  | shiftsRead (l : Link) (arg : Byte) (b : Body)
  /-- SHIFT_CLOSE, 3Eh (R177). -/
  | shiftClose (l : Link) (arg : Byte) (b : Body)
  /-- REPORT, 3Fh (R178). -/
  | report (l : Link) (arg : Byte) (b : Body)
  /-- PAT, 34h, bit 7 of the argument clear (R103). -/
  | patWrite (l : Link) (arg : Byte) (b : Body)
  /-- PAT, 34h, bit 7 of the argument set (R103). -/
  | patRead (l : Link) (arg : Byte) (b : Body)
  /-- ORD_ADD, 35h (R98). -/
  | ordAdd (l : Link) (arg : Byte) (b : Body)
  /-- ORD_CLOSE, 36h (R99). -/
  | ordClose (l : Link) (arg : Byte) (b : Body)
  /-- ORD_DROP, 37h (R100). -/
  | ordDrop (l : Link) (arg : Byte) (b : Body)
  /-- ORD_READ, 38h (R101). -/
  | ordRead (l : Link) (arg : Byte) (b : Body)
  /-- RCP, 39h, a write of section 0..7, or of a section that does not exist, which is refused (R105; log 13). -/
  | rcpWriteKind (l : Link) (arg : Byte) (b : Body)
  /-- RCP, 39h, argument 8 (R105). -/
  | rcpWriteLimits (l : Link) (b : Body)
  /-- RCP, 39h, argument 9 (R105). -/
  | rcpWritePolicy (l : Link) (b : Body)
  /-- RCP, 39h, argument 10 (R105). -/
  | rcpCopy (l : Link) (b : Body)
  /-- RCP, 39h, bit 6 or bit 7 of the argument set (R106). -/
  | rcpRead (l : Link) (arg : Byte) (b : Body)
  /-- RCP_ARM, 3Ah, argument 0, or an argument above 1, which is refused (R107; log 13). -/
  | rcpArm (l : Link) (arg : Byte) (b : Body)
  /-- RCP_ARM, 3Ah, argument 1 (R108). -/
  | rcpDisarm (l : Link) (b : Body)
  /-- SAMPLE, 3Bh, argument 0 (R112). -/
  | sampleRequest (l : Link) (b : Body)
  /-- SAMPLE, 3Bh, argument 1 (R113). -/
  | sampleCancel (l : Link) (b : Body)
  /-- SAMPLE, 3Bh, argument 2, or an argument above 2, which is refused (R113; log 13). -/
  | sampleRead (l : Link) (arg : Byte) (b : Body)
  /-- FLAW, 3Ch (R92). -/
  | flaw (l : Link) (arg : Byte) (b : Body)
  /-- PLATE, 3Dh (R168). -/
  | plate (l : Link) (arg : Byte) (b : Body)
  /-- WINDOW, 40h (R93). -/
  | window (l : Link) (arg : Byte) (b : Body)
  /-- CONF, 31h, item 00h (R5). -/
  | confEncoderScale (l : Link) (b : Body)
  /-- CONF, 31h, item 01h (R6). -/
  | confDCut (l : Link) (b : Body)
  /-- CONF, 31h, item 02h (R6). -/
  | confDCommit (l : Link) (b : Body)
  /-- CONF, 31h, item 03h (R6). -/
  | confTLate (l : Link) (b : Body)
  /-- CONF, 31h, item 04h (R11). -/
  | confClockSelect (l : Link) (b : Body)
  /-- CONF, 31h, item 05h (R31). -/
  | confStaleDistance (l : Link) (b : Body)
  /-- CONF, 31h, item 06h (R51). -/
  | confKu (l : Link) (b : Body)
  /-- CONF, 31h, item 07h (R51). -/
  | confKd (l : Link) (b : Body)
  /-- CONF, 31h, item 08h (R57). -/
  | confJ (l : Link) (b : Body)
  /-- CONF, 31h, item 09h (R57). -/
  | confG (l : Link) (b : Body)
  /-- CONF, 31h, item 0Ah (R58). -/
  | confNetZone (l : Link) (b : Body)
  /-- CONF, 31h, item 0Bh (R114). -/
  | confCmin (l : Link) (b : Body)
  /-- CONF, 31h, item 0Ch (R114). -/
  | confCmax (l : Link) (b : Body)
  /-- CONF, 31h, item 0Dh (R114). -/
  | confCullMargin (l : Link) (b : Body)
  /-- CONF, 31h, item 0Eh (R114). -/
  | confLs (l : Link) (b : Body)
  /-- CONF, 31h, item 0Fh (R115). -/
  | confQ (l : Link) (b : Body)
  /-- CONF, 31h, item 10h (R142). -/
  | confTDev (l : Link) (b : Body)
  /-- CONF, 31h, items 20h..2Bh (R50). -/
  | confLaneExtent (l : Link) (arg : Byte) (b : Body)
  /-- CONF, 31h, items 30h..37h, or an argument that names no item, which is refused (R162, R26; log 13). -/
  | confDestination (l : Link) (arg : Byte) (b : Body)
  deriving DecidableEq, Repr

end Sys2Proof
end

