-- ==== Sys2Proof/Decode.lean ====
section
/-!
DEFINITION. The words of a transfer: the code of each command (the acceptance table of section 2.4), the command a
transfer spells (R18), the words that spell a command, and `decodeTableWord` for the host. The table of operations gives
no row any bits, so no number spells a command (log 20).
-/

namespace Sys2Proof

/-- The codes of the acceptance table of section 2.4; every other code is unknown (R22). -/
def codeDefined (code : Byte) : Bool :=
  code.toNat ≤ 0x03 || (0x10 ≤ code.toNat && code.toNat ≤ 0x14) || (0x20 ≤ code.toNat && code.toNat ≤ 0x23) ||
    (0x30 ≤ code.toNat && code.toNat ≤ 0x41)

/-- A CONF argument that names an item with a row of its own: 00h..10h (R26). -/
def confPlainItem (arg : Byte) : Bool := arg.toNat ≤ 0x10

/-- A CONF argument that names a lane: 20h..2Bh (R26). -/
def confLaneItem (arg : Byte) : Bool := 0x20 ≤ arg.toNat && arg.toNat ≤ 0x2B

/-- Bits 7 and 6 of an RCP argument: either set asks for a read (R106). -/
def rcpReads (arg : Byte) : Bool := arg.getLsbD 7 || arg.getLsbD 6

/-- The CONF row an argument belongs to (R26). -/
def confRow (l : Link) (arg : Byte) (b : Body) : Instr :=
  match arg.toNat with
  | 0 => .confEncoderScale l b
  | 1 => .confDCut l b
  | 2 => .confDCommit l b
  | 3 => .confTLate l b
  | 4 => .confClockSelect l b
  | 5 => .confStaleDistance l b
  | 6 => .confKu l b
  | 7 => .confKd l b
  | 8 => .confJ l b
  | 9 => .confG l b
  | 10 => .confNetZone l b
  | 11 => .confCmin l b
  | 12 => .confCmax l b
  | 13 => .confCullMargin l b
  | 14 => .confLs l b
  | 15 => .confQ l b
  | 16 => .confTDev l b
  | _ => if confLaneItem arg then .confLaneExtent l arg b else .confDestination l arg b

/-- The RCP row an argument belongs to (R105, R106). -/
def rcpRow (l : Link) (arg : Byte) (b : Body) : Instr :=
  if rcpReads arg then .rcpRead l arg b
  else
    match arg.toNat with
    | 8 => .rcpWriteLimits l b
    | 9 => .rcpWritePolicy l b
    | 10 => .rcpCopy l b
    | _ => .rcpWriteKind l arg b

/-- The command a command word spells: the code picks the command, and the argument the row where several rows share a
code (R18 and each command's own entry). -/
def ofCommandWord (l : Link) (code arg : Byte) (b : Body) : Instr :=
  match code.toNat with
  | 0x00 => .nop l arg b
  | 0x01 => .evt l arg b
  | 0x02 => .mask l arg b
  | 0x03 => .pos l arg b
  | 0x10 => .det l arg b
  | 0x11 => .bkg l arg b
  | 0x12 => .mark l arg b
  | 0x13 => .gap l arg b
  | 0x14 => .gstat l arg b
  | 0x20 => .take l arg b
  | 0x21 => if arg = 1 then .doneMissed l b else .doneOk l arg b
  | 0x22 => .route l arg b
  | 0x23 => .cstat l arg b
  | 0x30 => if arg = 0 then .modeSetup l b else if arg = 1 then .modeRun l b else if arg = 2 then .modeCull l b else .modeRead l arg b
  | 0x31 => confRow l arg b
  | 0x32 => .time l arg b
  | 0x33 => if arg = 0 then .shiftsWrite l b else .shiftsRead l arg b
  | 0x34 => if arg.getLsbD 7 then .patRead l arg b else .patWrite l arg b
  | 0x35 => .ordAdd l arg b
  | 0x36 => .ordClose l arg b
  | 0x37 => .ordDrop l arg b
  | 0x38 => .ordRead l arg b
  | 0x39 => rcpRow l arg b
  | 0x3A => if arg = 1 then .rcpDisarm l b else .rcpArm l arg b
  | 0x3B => if arg = 0 then .sampleRequest l b else if arg = 1 then .sampleCancel l b else .sampleRead l arg b
  | 0x3C => .flaw l arg b
  | 0x3D => .plate l arg b
  | 0x3E => .shiftClose l arg b
  | 0x3F => .report l arg b
  | 0x40 => .window l arg b
  | 0x41 => .restart l arg b
  | _ => .unknownCommand l code arg b

/-- The command a transfer spells, from its complete words and the number of bits after them (R17, R18). -/
def decodeTransfer (l : Link) (words : List Word) (tail : Nat) : Instr :=
  match words with
  | [] => .emptyTransfer l tail
  | w :: data => ofCommandWord l (w.extractLsb' 8 8) (w.extractLsb' 0 8) ⟨data, tail⟩

/-- A command word: the code in bits 15..8, the argument in bits 7..0 (section 2.8). -/
def commandWord (code arg : Byte) : Word := code ++ arg

/-- A transfer: its link, its complete words and the number of bits after them. -/
structure Transfer where
  link : Link
  words : List Word
  tail : Nat
  deriving DecidableEq, Repr

/-- The transfer of a command word and what follows it. -/
def transferOf (l : Link) (code arg : Byte) (b : Body) : Transfer := ⟨l, commandWord code arg :: b.data, b.tail⟩

/-- The transfer that spells a command; none for a step no master makes. -/
def encode : Instr → Option Transfer
  | .powerOn => none
  | .pinReset _ => none
  | .internalResetEnd => none
  | .encPulse => none
  | .tick => none
  | .stoppedSet => none
  | .timeStep => none
  | .deadlineEvent => none
  | .commit => none
  | .heldCommit => none
  | .expiry => none
  | .entryTake => none
  | .backgroundEntryComplete => none
  | .detectionEntryComplete => none
  | .markEntryComplete => none
  | .gapEntryComplete => none
  | .pieceTake => none
  | .cullPieceClose => none
  | .platePieceClose => none
  | .emptyTransfer l tail => some ⟨l, [], tail⟩
  | .unknownCommand l code arg b => some (transferOf l code arg b)
  | .nop l arg b => some (transferOf l 0x00 arg b)
  | .evt l arg b => some (transferOf l 0x01 arg b)
  | .mask l arg b => some (transferOf l 0x02 arg b)
  | .pos l arg b => some (transferOf l 0x03 arg b)
  | .det l arg b => some (transferOf l 0x10 arg b)
  | .bkg l arg b => some (transferOf l 0x11 arg b)
  | .mark l arg b => some (transferOf l 0x12 arg b)
  | .gap l arg b => some (transferOf l 0x13 arg b)
  | .gstat l arg b => some (transferOf l 0x14 arg b)
  | .take l arg b => some (transferOf l 0x20 arg b)
  | .doneOk l arg b => some (transferOf l 0x21 arg b)
  | .doneMissed l b => some (transferOf l 0x21 0x01 b)
  | .route l arg b => some (transferOf l 0x22 arg b)
  | .cstat l arg b => some (transferOf l 0x23 arg b)
  | .modeRead l arg b => some (transferOf l 0x30 arg b)
  | .modeRun l b => some (transferOf l 0x30 0x01 b)
  | .modeCull l b => some (transferOf l 0x30 0x02 b)
  | .modeSetup l b => some (transferOf l 0x30 0x00 b)
  | .confEncoderScale l b => some (transferOf l 0x31 0x00 b)
  | .confDCut l b => some (transferOf l 0x31 0x01 b)
  | .confDCommit l b => some (transferOf l 0x31 0x02 b)
  | .confTLate l b => some (transferOf l 0x31 0x03 b)
  | .confClockSelect l b => some (transferOf l 0x31 0x04 b)
  | .confStaleDistance l b => some (transferOf l 0x31 0x05 b)
  | .confKu l b => some (transferOf l 0x31 0x06 b)
  | .confKd l b => some (transferOf l 0x31 0x07 b)
  | .confJ l b => some (transferOf l 0x31 0x08 b)
  | .confG l b => some (transferOf l 0x31 0x09 b)
  | .confNetZone l b => some (transferOf l 0x31 0x0A b)
  | .confCmin l b => some (transferOf l 0x31 0x0B b)
  | .confCmax l b => some (transferOf l 0x31 0x0C b)
  | .confCullMargin l b => some (transferOf l 0x31 0x0D b)
  | .confLs l b => some (transferOf l 0x31 0x0E b)
  | .confQ l b => some (transferOf l 0x31 0x0F b)
  | .confTDev l b => some (transferOf l 0x31 0x10 b)
  | .confLaneExtent l arg b => some (transferOf l 0x31 arg b)
  | .confDestination l arg b => some (transferOf l 0x31 arg b)
  | .time l arg b => some (transferOf l 0x32 arg b)
  | .shiftsWrite l b => some (transferOf l 0x33 0x00 b)
  | .shiftsRead l arg b => some (transferOf l 0x33 arg b)
  | .patWrite l arg b => some (transferOf l 0x34 arg b)
  | .patRead l arg b => some (transferOf l 0x34 arg b)
  | .ordAdd l arg b => some (transferOf l 0x35 arg b)
  | .ordClose l arg b => some (transferOf l 0x36 arg b)
  | .ordDrop l arg b => some (transferOf l 0x37 arg b)
  | .ordRead l arg b => some (transferOf l 0x38 arg b)
  | .rcpWriteKind l arg b => some (transferOf l 0x39 arg b)
  | .rcpWriteLimits l b => some (transferOf l 0x39 0x08 b)
  | .rcpWritePolicy l b => some (transferOf l 0x39 0x09 b)
  | .rcpCopy l b => some (transferOf l 0x39 0x0A b)
  | .rcpRead l arg b => some (transferOf l 0x39 arg b)
  | .rcpArm l arg b => some (transferOf l 0x3A arg b)
  | .rcpDisarm l b => some (transferOf l 0x3A 0x01 b)
  | .sampleRequest l b => some (transferOf l 0x3B 0x00 b)
  | .sampleCancel l b => some (transferOf l 0x3B 0x01 b)
  | .sampleRead l arg b => some (transferOf l 0x3B arg b)
  | .flaw l arg b => some (transferOf l 0x3C arg b)
  | .plate l arg b => some (transferOf l 0x3D arg b)
  | .shiftClose l arg b => some (transferOf l 0x3E arg b)
  | .report l arg b => some (transferOf l 0x3F arg b)
  | .window l arg b => some (transferOf l 0x40 arg b)
  | .restart l arg b => some (transferOf l 0x41 arg b)

/-- The command that a number spells by the bits spec/opcode_table.json gives a row. The table gives no row any bits,
so no number spells a command (log 20). -/
def decodeTableWord (_nbits _w : Nat) : Option Instr := none

end Sys2Proof
end

