-- ==== Sys2Proof/Machine/State.lean ====
section
/-!
DEFINITION. The state of the part, block by block, as plain data: every piece of state the manual names, with
`State.reset` at the values it gives for power-on and pin reset. Bits that software reads as a word (flags, masks, cause
sets) are bit vectors; positions, counts and lengths are exact numbers.
-/

namespace Sys2Proof.Machine

/-! ## Names -/

/-- The operating modes (R180). -/
inductive Mode
  | setup
  | run
  | cull
  deriving DecidableEq, Repr

/-- The two optical channels (R36, R50). -/
inductive Channel
  | t
  | r
  deriving DecidableEq, Repr

/-- The kinds of flaw (R75). -/
inductive FlawKind
  | bubble
  | stone
  | tinSpot
  | scratch
  | distortion
  | edgeChip
  | stain
  | unknown
  deriving DecidableEq, Repr

/-- The classes of flaw, in the order FAINT < MINOR < MAJOR < CRITICAL (R76). -/
inductive FlawClass
  | faint
  | minor
  | major
  | critical
  deriving DecidableEq, Repr

/-- The causes a GAP can declare (R45). -/
inductive GapCause
  | camera
  | light
  | operator
  deriving DecidableEq, Repr

/-- The six causes of a blind span (R85). -/
inductive SpanCause
  | intake
  | gapCamera
  | gapLight
  | gapOperator
  | mapFull
  | forced
  deriving DecidableEq, Repr

/-- The grades of a plate, from best to worst (R161). -/
inductive Grade
  | a
  | b
  | c
  | x
  deriving DecidableEq, Repr

/-- The destination classes of a plate (R163). -/
inductive DestClass
  | order
  | surplus
  | downgrade
  | short
  | sample
  | cullet
  deriving DecidableEq, Repr

/-- The eight destination codes (R162). -/
inductive DestItem
  | surplusA
  | surplusB
  | surplusC
  | downgradeB
  | downgradeC
  | short
  | sample
  | cullet
  deriving DecidableEq, Repr

/-- The kinds of a row, a cut and a piece (section 2.8, R117, R136, R147). -/
inductive PieceKind
  | product
  | short
  | cull
  | sample
  | head
  | merged
  deriving DecidableEq, Repr

/-- The two states of a cut in the queue (R136). -/
inductive CutState
  | queued
  | issued
  deriving DecidableEq, Repr

/-- The states of an order (R97, R99). -/
inductive OrderState
  | opened
  | filled
  | closed
  deriving DecidableEq, Repr

/-- What planning does with glass not fully inspected (R104). -/
inductive BlindPolicy
  | cull
  | pass
  deriving DecidableEq, Repr

/-- The states of the planner (R116). -/
inductive PlannerState
  | idle
  | armed
  | deciding
  | held
  deriving DecidableEq, Repr

/-- A half-open cross extent [xl, xr): a lane, a pattern column, the net zone (R50, R58, R102). -/
structure Across where
  xl : Nat
  xr : Nat
  deriving DecidableEq, Repr

/-! ## Configuration -/

/-- The configuration items (the table of R26). -/
structure Conf where
  /-- Encoder scale, µm per pulse (R5). -/
  encoderScale : Nat
  /-- D_cut (R6). -/
  dCut : Nat
  /-- D_commit (R6). -/
  dCommit : Nat
  /-- T_late (R6). -/
  tLate : Nat
  /-- Clock select (R11). -/
  clockSelect : Nat
  /-- Stale distance (R31). -/
  staleDistance : Nat
  /-- Upward gain of the reference filter (R51). -/
  ku : Nat
  /-- Downward gain of the reference filter (R51). -/
  kd : Nat
  /-- J, the cross join tolerance (R57). -/
  joinTol : Nat
  /-- G, the row gap tolerance (R57). -/
  gapTol : Nat
  /-- net_left and net_right (R58). -/
  netZone : Across
  /-- Cmin (R114). -/
  cmin : Nat
  /-- Cmax (R114). -/
  cmax : Nat
  /-- Cull margin (R114). -/
  cullMargin : Nat
  /-- Ls (R114). -/
  ls : Nat
  /-- Q (R115). -/
  q : Nat
  /-- T_dev (R142). -/
  tDev : Nat
  /-- The lane table (R50). -/
  lanes : Vector Across 12
  /-- The destination codes, in the order of items 30h..37h (R26, R162). -/
  dest : Vector Nat 8
  deriving DecidableEq, Repr

/-! ## Travel unit -/

/-- What the expiry compare is armed with (R9). -/
structure ExpiryWatch where
  seq : Nat
  target : Nat
  deriving DecidableEq, Repr

/-- The travel unit (section 1.8). -/
structure Travel where
  /-- P, the travel count (R2, R3). -/
  p : Nat
  /-- The remainder below a millimetre, in µm (R2). -/
  remainder : Nat
  /-- The deadline compare: disarmed, or armed with s (R7). -/
  deadline : Option Nat
  /-- The deadline event raised and not yet opened, carrying its s (R8, R185; log 5). -/
  deadlineRaised : Option Nat
  /-- The expiry compare: disarmed, or armed with a cut (R9). -/
  expiry : Option ExpiryWatch
  /-- The expiry events raised and not yet received, oldest first, each its seq (R9, R146; log 5). -/
  expiryRaised : List Nat
  /-- The last-pulse time (R12). -/
  lastPulse : Nat
  /-- The stopped flag (R12). -/
  stopped : Bool
  /-- The time of day (R13). -/
  seconds : Nat
  /-- The millisecond count (R13). -/
  ms : Nat
  /-- The model's own (log 4): a tick has carried the millisecond count over, and the step of the time of day it makes
  has not been taken yet. -/
  stepDue : Bool
  deriving DecidableEq, Repr

/-! ## Links -/

/-- A response: its status word and its data words (R19). -/
structure Response where
  status : Word
  data : List Word
  deriving DecidableEq, Repr

/-- One link (chapter 2). Its attention output is computed from its flags and mask (log 15). -/
structure LinkState where
  /-- The pending response (R19). -/
  pending : Response
  /-- The event flags (R27). -/
  flags : BitVec 8
  /-- The event mask (R29). -/
  mask : BitVec 8
  /-- The complete words the last transfer shifted out on the data-out line (R19; log 7). -/
  shifted : List Word
  deriving DecidableEq, Repr

/-- The three links and the STALE arm state of the gantry link (R33). -/
structure Links where
  gantry : LinkState
  cutter : LinkState
  supervisor : LinkState
  staleArmed : Bool
  deriving DecidableEq, Repr

/-! ## Intake and lane references -/

/-- A detection, as the intake queue holds it (R36). -/
structure Detection where
  row : Nat
  xStart : Nat
  width : Nat
  band : Nat
  lane : Fin 12
  channel : Channel
  kind : FlawKind
  peak : Nat
  deriving DecidableEq, Repr

/-- An entry of the intake queue (R36). -/
inductive Entry
  | detection (d : Detection)
  | background (lane : Fin 12) (channel : Channel) (level : Nat)
  | mark (position : Nat)
  | gap (first last : Nat) (cause : GapCause)
  deriving DecidableEq, Repr

/-- The intake queue, the entry in process and the intake counters (R36, R37, R47). -/
structure Intake where
  queue : List Entry
  inProcess : Option Entry
  received : Nat
  dropped : Nat
  highWater : Nat
  overflow : Bool
  deriving DecidableEq, Repr

/-- One lane reference with its settle count (section 3.6). -/
structure Reference where
  level : Nat
  settle : Nat
  deriving DecidableEq, Repr

/-- The lane reference table (section 3.6). -/
structure RefTable where
  t : Vector Reference 12
  r : Vector Reference 12
  deriving DecidableEq, Repr

/-! ## Flaw assembler -/

/-- An open flaw (R55). -/
structure OpenFlaw where
  firstRow : Nat
  lastRow : Nat
  xMin : Nat
  xMax : Nat
  contrast : Nat
  kind : FlawKind
  stamp : Nat
  area : Nat
  seenT : Bool
  seenR : Bool
  late : Bool
  unsettled : Bool
  deriving DecidableEq, Repr

/-- The open flaw table and the assembly number (R55). -/
structure FlawTable where
  slots : Vector (Option OpenFlaw) 32
  assembly : Nat
  deriving DecidableEq, Repr

/-! ## Ribbon map -/

/-- A record of the flaw map (R80). -/
structure FlawRecord where
  number : Nat
  firstRow : Nat
  lastRow : Nat
  xMin : Nat
  xMax : Nat
  kind : FlawKind
  cls : FlawClass
  contrast : Nat
  size : Nat
  points : Nat
  area : Nat
  generation : Nat
  seenT : Bool
  seenR : Bool
  forced : Bool
  late : Bool
  clipped : Bool
  unsettled : Bool
  deriving DecidableEq, Repr

/-- A blind span; the cause set is held in the bits WINDOW sends (R85, R93). -/
structure Span where
  first : Nat
  last : Nat
  causes : BitVec 6
  deriving DecidableEq, Repr

/-- The ribbon map (chapter 5). -/
structure RibbonMap where
  flaws : List FlawRecord
  /-- The numbering counter (R82). -/
  nextNumber : Nat
  spans : List Span
  /-- W, the watermark (R88). -/
  w : Nat
  /-- E_closed (R90). -/
  eClosed : Nat
  deriving DecidableEq, Repr

/-! ## Production tables -/

/-- An order (R94). The required grade is A, B or C. -/
structure Order where
  id : Nat
  lp : Nat
  short : Option Nat
  pattern : Fin 8
  grade : Grade
  wanted : Nat
  stacker : Nat
  delivered : Nat
  inFlight : Nat
  state : OrderState
  deriving DecidableEq, Repr

/-- The order list, the pattern table and the sample list; a pattern of no columns is undefined (R94, R102, R111). -/
structure Production where
  orders : List Order
  patterns : Vector (List Across) 8
  samples : List Nat
  deriving DecidableEq, Repr

/-- An entry of the kind table; `weight` is W (R75). -/
structure KindEntry where
  gate : Nat
  smin : Nat
  smaj : Nat
  scrit : Nat
  weight : Nat
  deriving DecidableEq, Repr

/-- The grade limits of a recipe (R104). -/
structure Limits where
  da : Nat
  db : Nat
  nb : Nat
  edge : Nat
  fe : Nat
  deriving DecidableEq, Repr

/-- A recipe (R104). -/
structure Recipe where
  kinds : Vector KindEntry 8
  limits : Limits
  policy : BlindPolicy
  deriving DecidableEq, Repr

/-- The recipe store (R104). -/
structure RecipeStore where
  current : Recipe
  pending : Recipe
  generation : Nat
  /-- The arm state: none when disarmed, else the RC a. -/
  armedAt : Option Nat
  deriving DecidableEq, Repr

/-! ## Planner -/

/-- What a PRODUCT course fixes at the opening (R120). `present` says that O has not left the order list since: an order
dropped and added again under the same id is a different order (R128; log 19). -/
structure ProductCourse where
  order : Nat
  lp : Nat
  short : Option Nat
  pattern : Fin 8
  grade : Grade
  present : Bool
  deriving DecidableEq, Repr

/-- The course of a decision (R120). A SAMPLE course's `present` says that its position has not left the sample list
since (R113; log 19). -/
inductive Course
  | sample (position : Nat) (present : Bool)
  | cullMode
  | noOrder
  | product (c : ProductCourse)
  deriving DecidableEq, Repr

/-- A row of the row table (R117). -/
structure Row where
  id : Nat
  start : Nat
  stop : Nat
  kind : PieceKind
  order : Option Nat
  pattern : Option (Fin 8)
  k : Nat
  orderPlates : Nat
  forced : Bool
  unverified : Bool
  left : Bool
  deriving DecidableEq, Repr

/-- The planner and its row table (R116, R118). -/
structure Planner where
  state : PlannerState
  /-- The plan start s. -/
  s : Nat
  nextRowId : Nat
  course : Option Course
  rows : List Row
  deriving DecidableEq, Repr

/-! ## Cut dispatcher -/

/-- An entry of the cut queue (R136). -/
structure Cut where
  seq : Nat
  target : Nat
  kind : PieceKind
  pattern : Option (Fin 8)
  row : Option Nat
  state : CutState
  deriving DecidableEq, Repr

/-- The merged-piece record (R137). -/
structure Merged where
  start : Option Nat
  count : Nat
  deriving DecidableEq, Repr

/-- A routing entry (R148, section 2.8); `grade` is none and `plate` is 0 where the entry is no plate. -/
structure RouteEntry where
  seq : Nat
  kind : PieceKind
  column : Nat
  dest : Nat
  grade : Option Grade
  plate : Nat
  deriving DecidableEq, Repr

/-- The cut dispatcher (chapter 8). -/
structure Dispatcher where
  cuts : List Cut
  nextSeq : Nat
  aLast : Option Nat
  headPos : Nat
  merged : Option Merged
  routing : List RouteEntry
  missed : Nat
  expired : Nat
  routeLost : Nat
  deriving DecidableEq, Repr

/-! ## Grader -/

/-- A piece handed to the grader (R147). -/
structure Piece where
  seq : Nat
  kind : PieceKind
  start : Option Nat
  stop : Nat
  row : Option Nat
  pattern : Option (Fin 8)
  deriving DecidableEq, Repr

/-- The piece in process with the copy made when it was taken (R153). `cleared` says that a line clear has come since
(R155). -/
structure Closing where
  piece : Piece
  order : Option Nat
  k : Nat
  orderPlates : Nat
  unverified : Bool
  forced : Bool
  columns : List Across
  netZone : Across
  cleared : Bool
  deriving DecidableEq, Repr

/-- An entry of a plate's flaw list (R167). -/
structure ListedFlaw where
  number : Nat
  kind : FlawKind
  cls : FlawClass
  points : Nat
  along : Nat
  cross : Nat
  deriving DecidableEq, Repr

/-- An entry of the plate log (R167). -/
structure PlateEntry where
  id : Nat
  row : Nat
  order : Option Nat
  column : Nat
  kind : PieceKind
  start : Nat
  stop : Nat
  width : Nat
  grade : Grade
  dest : Nat
  unverified : Bool
  forced : Bool
  surplus : Bool
  short : Bool
  sample : Bool
  faint : Nat
  minor : Nat
  major : Nat
  critical : Nat
  sum : Nat
  density : Nat
  shift : Nat
  flaws : List ListedFlaw
  more : Nat
  deriving DecidableEq, Repr

/-- The grader (chapter 9); the plate log stands oldest first. -/
structure Grader where
  queue : List Piece
  closing : Option Closing
  nextPlate : Nat
  wrapped : Bool
  log : List PlateEntry
  deriving DecidableEq, Repr

/-! ## Shift accounts -/

/-- The running counters, which a report freezes (R170 to R173). -/
structure Counts where
  byKind : Vector Nat 8
  byClass : Vector Nat 4
  border : Nat
  faintDropped : Nat
  mapFull : Nat
  forcedCloses : Nat
  late : Nat
  lateDropped : Nat
  intakeDrops : Nat
  blindRows : Nat
  missed : Nat
  expired : Nat
  routeLost : Nat
  lineStops : Nat
  /-- Plates graded A, B, C, X (R171). -/
  byGrade : Vector Nat 4
  /-- Plates by destination class, in the order of R178 (R171). -/
  byDest : Vector Nat 6
  cullLength : Nat
  productArea : Nat
  totalArea : Nat
  runSeconds : Nat
  stoppedSeconds : Nat
  deriving DecidableEq, Repr

/-- An entry of the shift start table (R174). -/
structure ShiftStart where
  enabled : Bool
  start : Nat
  deriving DecidableEq, Repr

/-- A shift report (R176). -/
structure Report where
  shift : Nat
  closeTime : Nat
  cause : Nat
  counts : Counts
  yield : Nat
  deriving DecidableEq, Repr

/-- The shift accounts (chapter 10); the report store stands newest first. -/
structure Accounts where
  counts : Counts
  productRem : Nat
  totalRem : Nat
  shift : Nat
  table : Vector ShiftStart 4
  reports : List Report
  deriving DecidableEq, Repr

/-! ## The part -/

/-- The whole part. -/
structure State where
  /-- The mode in force (R180). -/
  mode : Mode
  /-- The switch (R180). -/
  switch : Option Mode
  /-- The internal reset is asserted (R188). -/
  inReset : Bool
  conf : Conf
  travel : Travel
  links : Links
  intake : Intake
  refs : RefTable
  assembler : FlawTable
  map : RibbonMap
  production : Production
  recipes : RecipeStore
  planner : Planner
  dispatcher : Dispatcher
  grader : Grader
  accounts : Accounts
  /-- The commands waiting, first in, first out; the model's own (log 1). -/
  pending : List Instr
  deriving DecidableEq, Repr

/-- Why the part stops. The manual names nothing that stops it (log 25): a command it cannot carry out is answered with a
reason, which is a next state. -/
inductive Fault
  deriving DecidableEq, Repr

/-- Why a command has no meaning. -/
inductive Refusal
  /-- Raised by `exec` for a row that has no meaning yet; safe. -/
  | notModelled (mnemonic : String)
  /-- Raised by UNKNOWN_COMMAND on a term that is no command: its code is one the acceptance table defines, so the words
  spell another row (`WellFormed` refuses the term); safe. -/
  | codeIsDefined
  deriving DecidableEq, Repr

/-! ## After reset -/

/-- The response of all zeros (R20). -/
def Response.empty : Response := ⟨0, []⟩

/-- The default lane table: lane i covers [280 × i, 280 × i + 300) (R50). -/
def Conf.defaultLanes : Vector Across 12 :=
  #v[⟨0, 300⟩, ⟨280, 580⟩, ⟨560, 860⟩, ⟨840, 1140⟩, ⟨1120, 1420⟩, ⟨1400, 1700⟩, ⟨1680, 1980⟩, ⟨1960, 2260⟩,
    ⟨2240, 2540⟩, ⟨2520, 2820⟩, ⟨2800, 3100⟩, ⟨3080, 3380⟩]

/-- The default destination codes (R162). -/
def Conf.defaultDest : Vector Nat 8 := #v[1, 2, 3, 4, 5, 6, 7, 0]

/-- The configuration after reset: every item at its default. -/
def Conf.default : Conf where
  encoderScale := 1000
  dCut := 38000
  dCommit := 4000
  tLate := 200
  clockSelect := 0
  staleDistance := 2000
  ku := 32
  kd := 8
  joinTol := 4
  gapTol := 8
  netZone := ⟨150, 3450⟩
  cmin := 400
  cmax := 1500
  cullMargin := 30
  ls := 500
  q := 14
  tDev := 50
  lanes := Conf.defaultLanes
  dest := Conf.defaultDest

/-- The default kind table (R75). -/
def Recipe.defaultKinds : Vector KindEntry 8 :=
  #v[⟨12, 1, 3, 8, 40⟩, ⟨8, 1, 2, 4, 96⟩, ⟨16, 2, 5, 12, 24⟩, ⟨10, 10, 40, 150, 8⟩, ⟨20, 30, 80, 300, 6⟩,
    ⟨6, 1, 3, 6, 64⟩, ⟨24, 5, 20, 60, 4⟩, ⟨10, 2, 5, 10, 32⟩]

/-- The default recipe (R104). -/
def Recipe.default : Recipe := ⟨Recipe.defaultKinds, ⟨2, 12, 2, 25, 24⟩, .cull⟩

/-- A link after reset (R35); no transfer has shifted anything out (log 11). -/
def LinkState.reset : LinkState := ⟨Response.empty, 0, 0, []⟩

/-- Every running counter at 0 (R179, R176). -/
def Counts.zero : Counts where
  byKind := Vector.replicate 8 0
  byClass := Vector.replicate 4 0
  border := 0
  faintDropped := 0
  mapFull := 0
  forcedCloses := 0
  late := 0
  lateDropped := 0
  intakeDrops := 0
  blindRows := 0
  missed := 0
  expired := 0
  routeLost := 0
  lineStops := 0
  byGrade := Vector.replicate 4 0
  byDest := Vector.replicate 6 0
  cullLength := 0
  productArea := 0
  totalArea := 0
  runSeconds := 0
  stoppedSeconds := 0

/-- The part when the internal reset has ended (R188, R189): every block at its power-on and pin reset value. -/
def State.reset : State where
  mode := .setup
  switch := none
  inReset := false
  conf := Conf.default
  travel := ⟨0, 0, none, none, none, [], 2000, true, 0, 0, false⟩
  links := ⟨LinkState.reset, LinkState.reset, LinkState.reset, true⟩
  intake := ⟨[], none, 0, 0, 0, false⟩
  refs := ⟨Vector.replicate 12 ⟨32768, 0⟩, Vector.replicate 12 ⟨32768, 0⟩⟩
  assembler := ⟨Vector.replicate 32 none, 0⟩
  map := ⟨[], 0, [], 0, 0⟩
  production := ⟨[], #v[[⟨150, 3450⟩], [], [], [], [], [], [], []], []⟩
  recipes := ⟨Recipe.default, Recipe.default, 0, none⟩
  planner := ⟨.idle, 0, 0, none, []⟩
  dispatcher := ⟨[], 0, none, 0, none, [], 0, 0, 0⟩
  grader := ⟨[], none, 1, false, []⟩
  accounts := ⟨Counts.zero, 0, 0, 1, Vector.replicate 4 ⟨false, 0⟩, []⟩
  pending := []

end Sys2Proof.Machine
end

