-- ==== Sys2Proof/Machine/Operands.lean ====
section
/-!
DEFINITION. The words of commands and responses: status words, two-word quantities, and the record layouts of section
2.8, with the codes the manual gives to every name it sends in a word.
-/

namespace Sys2Proof.Machine

/-! ## Results and reasons (section 2.3) -/

/-- The four results. -/
inductive Result
  | done
  | adjusted
  | refused
  | unknown
  deriving DecidableEq, Repr

/-- The reasons. -/
inductive Reason
  | none
  | link
  | mode
  | range
  | full
  | empty
  | busy
  | seq
  | notFound
  | gone
  | short
  | duplicate
  | clamped
  | held
  | partly
  deriving DecidableEq, Repr

/-- The two result bits of a status word. -/
def Result.code : Result → BitVec 2
  | .done => 0
  | .adjusted => 1
  | .refused => 2
  | .unknown => 3

/-- The six reason bits of a status word. -/
def Reason.code : Reason → BitVec 6
  | .none => 0
  | .link => 1
  | .mode => 2
  | .range => 3
  | .full => 4
  | .empty => 5
  | .busy => 6
  | .seq => 7
  | .notFound => 8
  | .gone => 9
  | .short => 10
  | .duplicate => 11
  | .clamped => 16
  | .held => 17
  | .partly => 18

/-- What a command answers: its result, its reason and the data words after the status word. -/
structure Reply where
  result : Result
  reason : Reason
  data : List Word
  deriving DecidableEq, Repr

/-- DONE with data words. -/
def Reply.done (ws : List Word) : Reply := ⟨.done, .none, ws⟩
/-- ADJUSTED for a reason, with data words. -/
def Reply.adjusted (why : Reason) (ws : List Word) : Reply := ⟨.adjusted, why, ws⟩
/-- REFUSED for a reason; a refused command returns the status word alone. -/
def Reply.refused (why : Reason) : Reply := ⟨.refused, why, []⟩

/-- The status word: the code as received in bits 15..8, the result in 7..6, the reason in 5..0 (section 2.8). -/
def statusWord (code : Byte) (r : Result) (why : Reason) : Word := code ++ (r.code ++ why.code)

/-- The response a reply makes for a command of this code (R19). -/
def Reply.response (code : Byte) (r : Reply) : Response := ⟨statusWord code r.result r.reason, r.data⟩

/-! ## Numbers in words -/

/-- A quantity of one word. -/
def word (n : Nat) : Word := BitVec.ofNat 16 n

/-- A Boolean sent as a word, 0 or 1. -/
def flagWord (b : Bool) : Word := if b then 1 else 0

/-- The low 32 bits of a quantity in two words, the more significant first. -/
def low32 (n : Nat) : List Word := [BitVec.ofNat 16 (n / 65536), BitVec.ofNat 16 n]

/-- A quantity of two words, the more significant first. Beyond 4,294,967,295 the manual states no words (log 12). -/
def words32 (n : Nat) : List Word :=
  if n ≤ Config.rcMax then low32 n else [(Config.wideWords n).1, (Config.wideWords n).2]

/-- The value of data word `i` (from 0); absent words read as 0, and the SHORT check keeps them from being used. -/
def valueAt (ws : List Word) (i : Nat) : Nat := (ws.getD i 0).toNat

/-- The value of the two data words from `i`, the more significant first. -/
def value32At (ws : List Word) (i : Nat) : Nat := valueAt ws i * 65536 + valueAt ws (i + 1)

/-! ## Codes of names -/

/-- The mode codes of POS and MODE (R15, R181). -/
def Mode.code : Mode → Nat
  | .setup => 0
  | .run => 1
  | .cull => 2

/-- The kind codes (R75). -/
def FlawKind.code : FlawKind → Fin 8
  | .bubble => 0
  | .stone => 1
  | .tinSpot => 2
  | .scratch => 3
  | .distortion => 4
  | .edgeChip => 5
  | .stain => 6
  | .unknown => 7

/-- The kind of a three-bit code (section 2.8). -/
def FlawKind.ofCode (n : Nat) : FlawKind :=
  match n with
  | 0 => .bubble
  | 1 => .stone
  | 2 => .tinSpot
  | 3 => .scratch
  | 4 => .distortion
  | 5 => .edgeChip
  | 6 => .stain
  | _ => .unknown

/-- The class codes (R92); they follow the order of the classes (R76). -/
def FlawClass.code : FlawClass → Fin 4
  | .faint => 0
  | .minor => 1
  | .major => 2
  | .critical => 3

/-- The grade codes (section 2.8): 1 A, 2 B, 3 C, 4 X. -/
def Grade.code : Grade → Nat
  | .a => 1
  | .b => 2
  | .c => 3
  | .x => 4

/-- Where a grade stands in a report (R178). -/
def Grade.slot : Grade → Fin 4
  | .a => 0
  | .b => 1
  | .c => 2
  | .x => 3

/-- Where a destination class stands in a report (R178). -/
def DestClass.slot : DestClass → Fin 6
  | .order => 0
  | .surplus => 1
  | .downgrade => 2
  | .short => 3
  | .sample => 4
  | .cullet => 5

/-- Where a destination code stands among items 30h..37h (R26). -/
def DestItem.slot : DestItem → Fin 8
  | .surplusA => 0
  | .surplusB => 1
  | .surplusC => 2
  | .downgradeB => 3
  | .downgradeC => 4
  | .short => 5
  | .sample => 6
  | .cullet => 7

/-- The kind codes of rows, cuts and pieces (section 2.8). -/
def PieceKind.code : PieceKind → Nat
  | .product => 1
  | .short => 2
  | .cull => 3
  | .sample => 4
  | .head => 5
  | .merged => 6

/-- The state codes of ORD_READ (R101). -/
def OrderState.code : OrderState → Nat
  | .opened => 0
  | .filled => 1
  | .closed => 2

/-- The policy codes of RCP section 9 (R105). -/
def BlindPolicy.code : BlindPolicy → Nat
  | .cull => 0
  | .pass => 1

/-- The channels word of FLAW: 1 T, 2 R, 3 both (R92). -/
def channelsWord (seenT seenR : Bool) : Word := flagWord seenT + 2 * flagWord seenR

/-- The bit WINDOW gives a cause (R93). -/
def SpanCause.bit : SpanCause → BitVec 6
  | .intake => 1
  | .gapCamera => 2
  | .gapLight => 4
  | .gapOperator => 8
  | .mapFull => 16
  | .forced => 32

/-- The span cause of a GAP's cause (R69). -/
def GapCause.span : GapCause → SpanCause
  | .camera => .gapCamera
  | .light => .gapLight
  | .operator => .gapOperator

/-- The cause a GAP argument names: 1 camera, 2 light, 3 operator (R45). -/
def GapCause.ofCode (n : Nat) : Option GapCause :=
  match n with
  | 1 => some .camera
  | 2 => some .light
  | 3 => some .operator
  | _ => none

/-- The code GSTAT gives the entry in process (R48). -/
def entryCode : Option Entry → Nat
  | none => 0
  | some (.detection _) => 1
  | some (.background _ _ _) => 2
  | some (.mark _) => 3
  | some (.gap _ _ _) => 4

/-- The lane a four-bit field names; lanes 12..15 do not exist (section 2.8). -/
def laneOf (n : Nat) : Option (Fin 12) := if h : n < 12 then some ⟨n, h⟩ else none

/-- The channel a bit names: 0 T, 1 R. -/
def channelOf (bit : Bool) : Channel := if bit then .r else .t

/-! ## Records of the gantry (section 2.8) -/

/-- A detection record as sent; its lane may not exist. -/
structure RawDetection where
  row : Nat
  xStart : Nat
  channel : Channel
  width : Nat
  lane : Nat
  kind : FlawKind
  peak : Nat
  band : Nat
  deriving DecidableEq, Repr

/-- The detection record of five words; a band length field of 0 means 16. -/
def rawDetection (w0 w1 w2 w3 w4 : Word) : RawDetection where
  row := w0.toNat * 65536 + w1.toNat
  xStart := (w2.extractLsb' 0 13).toNat
  channel := channelOf (w2.getLsbD 13)
  width := (w3.extractLsb' 0 8).toNat
  lane := (w3.extractLsb' 8 4).toNat
  kind := FlawKind.ofCode (w3.extractLsb' 12 3).toNat
  peak := (w4.extractLsb' 0 12).toNat
  band := if w4.extractLsb' 12 4 = 0 then 16 else (w4.extractLsb' 12 4).toNat

/-- Up to `n` complete detection records from the front of the data words (R39). -/
def detectionRecords : Nat → List Word → List RawDetection
  | n + 1, w0 :: w1 :: w2 :: w3 :: w4 :: rest => rawDetection w0 w1 w2 w3 w4 :: detectionRecords n rest
  | _, _ => []

/-- A background sample as sent; its lane may not exist. -/
structure RawSample where
  level : Nat
  lane : Nat
  channel : Channel
  deriving DecidableEq, Repr

/-- The background sample of two words. -/
def rawSample (w0 w1 : Word) : RawSample where
  level := (w0.extractLsb' 0 12).toNat
  lane := (w1.extractLsb' 0 4).toNat
  channel := channelOf (w1.getLsbD 4)

/-- Up to `n` complete background samples from the front of the data words (R43). -/
def sampleRecords : Nat → List Word → List RawSample
  | n + 1, w0 :: w1 :: rest => rawSample w0 w1 :: sampleRecords n rest
  | _, _ => []

/-! ## Records for the cutter (section 2.8) -/

/-- The signed value of a word in two's complement (R141). -/
def signedWord (w : Word) : Int := w.toInt

/-- The pattern field of a cut record: Fh when the row has none. -/
def patternField : Option (Fin 8) → Nat
  | some i => i.val
  | none => 15

/-- The six words of the cut record; the arrival is the low 32 bits of target + D_cut (R16, R140). -/
def cutRecord (dCut : Nat) (c : Cut) : List Word :=
  word c.seq :: (words32 c.target ++ low32 (c.target + dCut) ++ [word (c.kind.code + 16 * patternField c.pattern)])

/-- The grade field of a routing entry: 0 when there is none. -/
def gradeField : Option Grade → Nat
  | some g => g.code
  | none => 0

/-- The three words of a routing entry. -/
def routeWords (e : RouteEntry) : List Word :=
  [word e.seq, word (e.kind.code + 16 * e.column + 256 * e.dest + 4096 * gradeField e.grade), word e.plate]

end Sys2Proof.Machine
end

