-- ==== Sys2Proof/Machine/Flags.lean ====
section
/-!
DEFINITION. Event flags, masks, attention and level conditions (section 2.5). `raise` is the one way an event sets a
flag; `asEvent` runs one event of the part and sets the level flags whose condition it made rise (R28).
-/

namespace Sys2Proof.Machine

/-! ## The links of a state -/

/-- One link of the three. -/
def Links.get (ls : Links) : Link → LinkState
  | .gantry => ls.gantry
  | .cutter => ls.cutter
  | .supervisor => ls.supervisor

/-- The three links with one replaced. -/
def Links.set (ls : Links) (l : Link) (x : LinkState) : Links :=
  match l with
  | .gantry => { ls with gantry := x }
  | .cutter => { ls with cutter := x }
  | .supervisor => { ls with supervisor := x }

/-- One link of the part. -/
def State.link (s : State) (l : Link) : LinkState := s.links.get l

/-- The part with one link replaced. -/
def State.setLink (s : State) (l : Link) (x : LinkState) : State := { s with links := s.links.set l x }

/-! ## Edge events -/

/-- The events of the table of section 2.5. -/
inductive Event
  | overflow
  | stale
  | forced
  | late
  | ready
  | expired
  | flush
  | route
  | routeLost
  | filled
  | starved
  | shift
  | blind
  | mapFull
  | spanMerge
  | recipe
  | mode (l : Link)
  deriving DecidableEq, Repr

/-- The link an event belongs to (R27). -/
def Event.link : Event → Link
  | .overflow | .stale | .forced | .late => .gantry
  | .ready | .expired | .flush | .route | .routeLost => .cutter
  | .filled | .starved | .shift | .blind | .mapFull | .spanMerge | .recipe => .supervisor
  | .mode l => l

/-- The flag number of an event. -/
def Event.flag : Event → Nat
  | .overflow | .ready | .filled => 0
  | .stale | .expired | .starved => 1
  | .forced | .flush | .shift => 2
  | .late | .route | .blind => 3
  | .routeLost | .mapFull => 4
  | .spanMerge => 5
  | .recipe => 6
  | .mode _ => 7

/-- The bit of a flag number. -/
def flagBit (n : Nat) : BitVec 8 := BitVec.ofNat 8 (2 ^ n)

/-- The mask bits whose flag numbers name an event on the link (R29): gantry 0..3 and 7, cutter 0..4 and 7, supervisor
0..7. -/
def definedFlags : Link → BitVec 8
  | .gantry => 0x8F
  | .cutter => 0x9F
  | .supervisor => 0xFF

/-- An event sets its flag on its link, whatever the mask (R27). -/
def raise (e : Event) (s : State) : State :=
  s.setLink e.link { s.link e.link with flags := (s.link e.link).flags ||| flagBit e.flag }

/-- MODE is set on all three links (R34). -/
def raiseMode (s : State) : State :=
  raise (.mode .supervisor) (raise (.mode .cutter) (raise (.mode .gantry) s))

/-- A flag of a link is set. -/
def State.flagSet (s : State) (e : Event) : Bool := (s.link e.link).flags.getLsbD e.flag

/-- The attention output of a link: asserted while a flag is set whose mask bit is set; released while the internal reset
is asserted (R32). -/
def State.attention (s : State) (l : Link) : Bool :=
  !s.inReset && ((s.link l).flags &&& (s.link l).mask) != 0

/-! ## Level conditions -/

/-- An order's need (R95). -/
def Order.need (o : Order) : Nat := o.wanted - o.delivered - o.inFlight

/-- The order can be active: OPEN and with need (R95). -/
def Order.wants (o : Order) : Bool := o.state == .opened && decide (0 < o.need)

/-- The active order: the first OPEN order with need (R95). -/
def activeOrder (orders : List Order) : Option Order := orders.find? Order.wants

/-- READY: a QUEUED cut exists (R138). -/
def State.ready (s : State) : Bool := s.dispatcher.cuts.any fun c => c.state == .queued

/-- ROUTE: the routing list holds an entry (R148). -/
def State.routeWaiting (s : State) : Bool := !s.dispatcher.routing.isEmpty

/-- STARVED: the mode in force is RUN and there is no active order (R121). -/
def State.starved (s : State) : Bool := s.mode == .run && (activeOrder s.production.orders).isNone

/-- A level flag is set when its condition goes from false to true (R28). -/
def setIfRisen (e : Event) (before after : Bool) (s : State) : State := if !before && after then raise e s else s

/-- The level flags after an event that took the part from `old` to `new`. -/
def setRisenLevels (old new : State) : State :=
  setIfRisen .starved old.starved new.starved
    (setIfRisen .route old.routeWaiting new.routeWaiting (setIfRisen .ready old.ready new.ready new))

/-- One event of the part: its effects, and the level flags whose conditions it made rise. -/
def asEvent (f : State → State) (s : State) : State := setRisenLevels s (f s)

/-! ## EVT and MASK -/

/-- EVT clears every flag of its link (R30). -/
def clearFlags (l : Link) (s : State) : State := s.setLink l { s.link l with flags := 0 }

/-- The level flags of a link whose condition is true now. -/
def levelFlags (s : State) : Link → BitVec 8
  | .gantry => 0
  | .cutter => (if s.ready then flagBit 0 else 0) ||| (if s.routeWaiting then flagBit 3 else 0)
  | .supervisor => if s.starved then flagBit 1 else 0

/-- The mask a MASK data word asks for on a link: the defined bits of its low byte (R29). -/
def storedMask (l : Link) (w : Word) : BitVec 8 := w.extractLsb' 0 8 &&& definedFlags l

/-- The data word asks for a bit that is not stored: an undefined flag, or any of bits 15..8 (R29). -/
def maskDiscards (l : Link) (w : Word) : Bool := (w.extractLsb' 0 8 &&& ~~~ definedFlags l) != 0 || w.extractLsb' 8 8 != 0

/-- MASK stores the mask, and sets each level flag whose mask bit goes from 0 to 1 with its condition true (R28, R29). -/
def setMask (l : Link) (w : Word) (s : State) : State :=
  let old := s.link l
  let new := storedMask l w
  s.setLink l { old with mask := new, flags := old.flags ||| (levelFlags s l &&& new &&& ~~~ old.mask) }

end Sys2Proof.Machine
end

