-- ==== Sys2Proof/Machine/Ops.lean ====
section
/-!
DEFINITION. The operations every block shares: counters that saturate or wrap, insertion into an ordered list, and the
updates of one block of the part.
-/

namespace Sys2Proof.Machine

/-! ## Counters -/

/-- A 16-bit count that saturates (R47, R151, R170). -/
def bump (n : Nat) : Nat := if n < Config.countMax then n + 1 else n

/-- A 16-bit number that wraps to 0 (R47, R82, R116, R136). -/
def wrapSucc (n : Nat) : Nat := if n < Config.countMax then n + 1 else 0

/-- A 16-bit number, 1..65535, that wraps to 1 (R165, R176). -/
def wrapSuccOne (n : Nat) : Nat := if n < Config.countMax then n + 1 else 1

/-- A 32-bit quantity that saturates (R172). -/
def addSat (n k : Nat) : Nat := min Config.rcMax (n + k)

/-! ## Ordered lists -/

/-- Put `x` before the first element it precedes. -/
def insertOrdered {α : Type} (precedes : α → α → Bool) (x : α) : List α → List α
  | [] => [x]
  | y :: ys => if precedes x y then x :: y :: ys else y :: insertOrdered precedes x ys

/-- A list put in order; elements of which neither precedes the other keep their order. -/
def sortOrdered {α : Type} (precedes : α → α → Bool) (xs : List α) : List α :=
  xs.foldl (fun sorted x => insertOrdered precedes x sorted) []

/-- Replace the first element a test finds. -/
def updateFirst {α : Type} (found : α → Bool) (f : α → α) : List α → List α
  | [] => []
  | x :: xs => if found x then f x :: xs else x :: updateFirst found f xs

/-! ## Intersection tests (R1) -/

/-- An inclusive along extent meets the half-open interval [start, stop). -/
def alongMeets (first last start stop : Nat) : Bool := first < stop && start ≤ last

/-- An inclusive cross extent meets the half-open extent [xl, xr). -/
def acrossMeets (xMin xMax : Nat) (a : Across) : Bool := xMin < a.xr && a.xl ≤ xMax

/-- The width of a cross extent. -/
def Across.width (a : Across) : Nat := a.xr - a.xl

/-! ## Updates of one block -/

/-- Run an update of the counters (R170). -/
def State.count (f : Counts → Counts) (s : State) : State :=
  { s with accounts := { s.accounts with counts := f s.accounts.counts } }

end Sys2Proof.Machine
end

