-- ==== Sys2Proof/Machine/AccountsOps.lean ====
section
/-!
DEFINITION. What the shift accounts do with each hand-off (section 10.1), and the close of a shift (section 10.3).
-/

namespace Sys2Proof.Machine

/-! ## Hand-offs -/

/-- A flaw closed inside the net zone: once by its kind, once by its class (R70, R170). -/
def Counts.addFlaw (kind : FlawKind) (cls : FlawClass) (c : Counts) : Counts :=
  { c with
    byKind := c.byKind.set kind.code (bump c.byKind[kind.code])
    byClass := c.byClass.set cls.code (bump c.byClass[cls.code]) }

/-- A plate is added to the counts of its grade and of its destination class, or to neither (R171). -/
def Counts.addPlate (g : Grade) (d : DestClass) (c : Counts) : Counts :=
  if c.byGrade[g.slot] < Config.countMax ∧ c.byDest[d.slot] < Config.countMax then
    { c with
      byGrade := c.byGrade.set g.slot (c.byGrade[g.slot] + 1)
      byDest := c.byDest.set d.slot (c.byDest[d.slot] + 1) }
  else c

/-- A length is added to the cull length (R172). -/
def Counts.addCull (length : Nat) (c : Counts) : Counts := { c with cullLength := addSat c.cullLength length }

/-- An area in mm² is carried into a count of 0.01 m² and its remainder (R172; log 18). -/
def carryArea (count rem area : Nat) : Nat × Nat :=
  if count = Config.rcMax then (count, rem) else (addSat count ((rem + area) / 10000), (rem + area) % 10000)

/-- An area is added to the product area (R172). -/
def Accounts.addProductArea (area : Nat) (a : Accounts) : Accounts :=
  let r := carryArea a.counts.productArea a.productRem area
  { a with counts := { a.counts with productArea := r.1 }, productRem := r.2 }

/-- An area is added to the total cut area (R172). -/
def Accounts.addTotalArea (area : Nat) (a : Accounts) : Accounts :=
  let r := carryArea a.counts.totalArea a.totalRem area
  { a with counts := { a.counts with totalArea := r.1 }, totalRem := r.2 }

/-- A second is counted as stopped or running by the flag handed with its step (R173). -/
def Counts.addSecond (stopped : Bool) (c : Counts) : Counts :=
  if stopped then { c with stoppedSeconds := addSat c.stoppedSeconds 1 }
  else { c with runSeconds := addSat c.runSeconds 1 }

/-! ## Closing a shift -/

/-- The yield in per mille of the two areas, held at 1000; 0 when nothing was cut (R176). -/
def Counts.yield (c : Counts) : Nat :=
  if c.totalArea = 0 then 0 else min 1000 (c.productArea * 1000 / c.totalArea)

/-- The report a close forms (R176, step 1). -/
def Accounts.report (a : Accounts) (closeTime cause : Nat) : Report :=
  ⟨a.shift, closeTime, cause, a.counts, a.counts.yield⟩

/-- A shift close (R176). -/
def closeShift (closeTime cause : Nat) (s : State) : State :=
  let a := s.accounts
  raise .shift
    { s with
      accounts :=
        { a with
          counts := Counts.zero
          productRem := 0
          totalRem := 0
          shift := wrapSuccOne a.shift
          reports := (a.report closeTime cause :: a.reports).take Config.reportCapacity } }

/-- The enabled entry of the shift start table that holds a time (R175). -/
def shiftStartingAt (table : Vector ShiftStart 4) (seconds : Nat) : Option Nat :=
  table.toList.findIdx? fun e => e.enabled && e.start == seconds

/-- A step of the time of day handed to the shift accounts: the second is counted, and then the shift may close (R173,
R175). -/
def accountsStep (seconds : Nat) (stopped : Bool) (s : State) : State :=
  let counted := s.count (Counts.addSecond stopped)
  match shiftStartingAt s.accounts.table seconds with
  | some entry => closeShift seconds entry counted
  | none => counted

end Sys2Proof.Machine
end

