-- ==== Sys2Proof/Machine/TravelOps.lean ====
section
/-!
DEFINITION. The travel unit: the pulse arithmetic, the two compares, stopped-line detection and the time of day (chapter
1), and the STALE condition evaluated at a pulse (R33).
-/

namespace Sys2Proof.Machine

/-! ## The compares (R7, R9) -/

/-- The commit point of a cut at `s` (section 1.2), the target of the deadline compare. -/
def Conf.commitPoint (c : Conf) (s : Nat) : Nat := s + c.dCut - c.dCommit

/-- The threshold of the expiry compare for a cut at `c` (R9). -/
def Conf.expiryThreshold (conf : Conf) (c : Nat) : Nat := c + conf.dCut + conf.tLate

/-- An armed deadline compare raises, once, as soon as P ≥ target (R7). -/
def Travel.raiseDeadline (conf : Conf) (t : Travel) : Travel :=
  match t.deadline with
  | some s => if conf.commitPoint s ≤ t.p then { t with deadline := none, deadlineRaised := some s } else t
  | none => t

/-- An armed expiry compare raises, once, as soon as P is greater than the threshold (R9). -/
def Travel.raiseExpiry (conf : Conf) (t : Travel) : Travel :=
  match t.expiry with
  | some w =>
    if conf.expiryThreshold w.target < t.p then { t with expiry := none, expiryRaised := t.expiryRaised ++ [w.seq] }
    else t
  | none => t

/-- The planner arms the deadline compare with a plan start; it may raise at the arming (R7). -/
def armDeadline (start : Nat) (s : State) : State :=
  { s with travel := { s.travel with deadline := some start }.raiseDeadline s.conf }

/-- The dispatcher arms the expiry compare with a cut; it may raise at the arming (R9). -/
def armExpiry (seq target : Nat) (s : State) : State :=
  { s with travel := { s.travel with expiry := some ⟨seq, target⟩ }.raiseExpiry s.conf }

/-- The dispatcher has no cut to watch (R10). -/
def disarmExpiry (s : State) : State := { s with travel := { s.travel with expiry := none } }

/-! ## The pulse (R2, R3, R12) -/

/-- P and the remainder after a pulse of scale `u` (R2), saturating (R3). -/
def pulseCount (p r u : Nat) : Nat × Nat :=
  if p + (r + u) / 1000 ≤ Config.rcMax then (p + (r + u) / 1000, (r + u) % 1000) else (Config.rcMax, 999)

/-- A pulse counted: P and the remainder, the last-pulse time and the stopped flag, then the two compares. -/
def Travel.pulse (conf : Conf) (t : Travel) : Travel :=
  let c := pulseCount t.p t.remainder conf.encoderScale
  ({ t with p := c.1, remainder := c.2, lastPulse := 0, stopped := false }.raiseDeadline conf).raiseExpiry conf

/-- The STALE condition: the stale distance is not 0 and P − W exceeds it (R33). -/
def State.staleCondition (s : State) : Bool :=
  s.conf.staleDistance != 0 && decide (s.conf.staleDistance < s.travel.p - s.map.w)

/-- An evaluation of the STALE condition (R33). -/
def evaluateStale (s : State) : State :=
  if s.links.staleArmed && s.staleCondition then
    raise .stale { s with links := { s.links with staleArmed := false } }
  else s

/-- A pulse on ENC: the travel unit counts it, and outside SETUP a pulse that changes P evaluates STALE (R2, R33). -/
def pulse (s : State) : State :=
  let s' := { s with travel := s.travel.pulse s.conf }
  if s.mode != .setup && s'.travel.p != s.travel.p then evaluateStale s' else s'

/-! ## The tick (R12, R13) -/

/-- A tick: the last-pulse time and the millisecond count, which carries over at 1,000 (R12, R13; log 4). -/
def Travel.tick (t : Travel) : Travel :=
  { t with
    lastPulse := min Config.stoppedTicks (t.lastPulse + 1)
    ms := if t.ms < 999 then t.ms + 1 else 0
    stepDue := decide (999 ≤ t.ms) }

/-- The last-pulse time has reached 2,000 and the stopped flag is still clear (R12; log 4). -/
def State.stopIsDue (s : State) : Bool := s.travel.lastPulse == Config.stoppedTicks && !s.travel.stopped

/-- The stopped flag is set, and the change handed to the shift accounts is a line stop (R12, R173). -/
def setStopped (s : State) : State :=
  { s with travel := { s.travel with stopped := true } }.count fun c => { c with lineStops := bump c.lineStops }

/-- The seconds after a step (R13). -/
def nextSecond (seconds : Nat) : Nat := if seconds + 1 < Config.daySeconds then seconds + 1 else 0

/-- The time of day steps, and the step is handed to the shift accounts with the stopped flag (R13). -/
def stepTime (s : State) : State :=
  let seconds := nextSecond s.travel.seconds
  accountsStep seconds s.travel.stopped { s with travel := { s.travel with seconds := seconds, stepDue := false } }

end Sys2Proof.Machine
end

