-- ==== Sys2Proof/Machine/DispatcherOps.lean ====
section
/-!
DEFINITION. The order list's accounting (R96), the row table's removals (R118) and the cut dispatcher: the cut queue, lost
and reported cuts, folds, and the routing list (chapter 8).
-/

namespace Sys2Proof.Machine

/-! ## Orders -/

/-- The order list with the order of one id updated. -/
def Production.updateOrder (id : Nat) (f : Order → Order) (p : Production) : Production :=
  { p with orders := updateFirst (fun o => o.id == id) f p.orders }

/-- The order of an id. -/
def Production.order (p : Production) (id : Nat) : Option Order := p.orders.find? fun o => o.id == id

/-- Order plates are given back to their order; a row without order plates touches no order (R96, R145). -/
def releasePlates (order : Option Nat) (plates : Nat) (s : State) : State :=
  match order with
  | some id =>
    if plates = 0 then s
    else { s with production := s.production.updateOrder id fun o => { o with inFlight := o.inFlight - plates } }
  | none => s

/-! ## Rows (R118) -/

/-- The row of an id. -/
def Planner.row (p : Planner) (id : Nat) : Option Row := p.rows.find? fun r => r.id == id

/-- A row is removed by its id: it leaves at once when it is first, with the rows behind it that were waiting, and is
flagged left while a row ahead of it stays (R118). A removal that finds no row does nothing. -/
def removeRow (id : Nat) (rows : List Row) : List Row :=
  if rows.any fun r => r.id == id then
    (updateFirst (fun r => r.id == id) (fun r => { r with left := true }) rows).dropWhile Row.left
  else rows

/-- The part with a row removed. -/
def removeRowOf (id : Nat) (s : State) : State :=
  { s with planner := { s.planner with rows := removeRow id s.planner.rows } }

/-! ## The cut queue (R136, R139) -/

/-- The expiry compare follows the head of the cut queue (R139). -/
def rearmExpiry (s : State) : State :=
  match s.dispatcher.cuts with
  | c :: _ => armExpiry c.seq c.target s
  | [] => disarmExpiry s

/-- A cut handed over by the planner is appended, QUEUED, with the next seq (R136); into an empty queue it is the new head
(R139). -/
def appendCut (target : Nat) (kind : PieceKind) (pattern : Option (Fin 8)) (row : Option Nat) (s : State) : State :=
  let d := s.dispatcher
  let c : Cut := ⟨d.nextSeq, target, kind, pattern, row, .queued⟩
  let s' := { s with dispatcher := { d with cuts := d.cuts ++ [c], nextSeq := wrapSucc d.nextSeq } }
  if d.cuts.isEmpty then rearmExpiry s' else s'

/-- The ISSUED entries of the cut queue (R140). -/
def Dispatcher.issuedCount (d : Dispatcher) : Nat := d.cuts.countP fun c => c.state == .issued

/-- The QUEUED entries of the cut queue (R150). -/
def Dispatcher.queuedCount (d : Dispatcher) : Nat := d.cuts.countP fun c => c.state == .queued

/-! ## Lost cuts (R144 to R146) -/

/-- A row is folded: its order plates are released, it leaves the row table, and it is counted in the merged-piece record
when that is present (R145). -/
def foldRow (id : Nat) (s : State) : State :=
  match s.planner.row id with
  | some row =>
    let s' := removeRowOf id (releasePlates row.order row.orderPlates s)
    { s' with
      dispatcher :=
        { s'.dispatcher with merged := s'.dispatcher.merged.map fun m => { m with count := bump m.count } } }
  | none => s

/-- The row of a cut is folded; the head cut has none (R144). -/
def foldCutRow (c : Cut) (s : State) : State :=
  match c.row with
  | some id => foldRow id s
  | none => s

/-- The head cut `c` is given up, and `rest` stays: the merged-piece record is made if it is absent, the cut's row folded,
and the compare armed with the next head (R144). -/
def loseHead (c : Cut) (rest : List Cut) (s : State) : State :=
  let d := s.dispatcher
  let record := d.merged.getD ⟨d.aLast, 0⟩
  rearmExpiry (foldCutRow c { s with dispatcher := { d with cuts := rest, merged := some record } })

/-- A DONE with outcome MISSED on the head (R144). -/
def missHead (c : Cut) (rest : List Cut) (s : State) : State :=
  let s' := (loseHead c rest s).count fun x => { x with missed := bump x.missed }
  { s' with dispatcher := { s'.dispatcher with missed := bump s'.dispatcher.missed } }

/-- The expiry of the head (R146). -/
def expireHead (c : Cut) (rest : List Cut) (s : State) : State :=
  let s' := (loseHead c rest s).count fun x => { x with expired := bump x.expired }
  raise .expired { s' with dispatcher := { s'.dispatcher with expired := bump s'.dispatcher.expired } }

/-! ## Reported cuts (R143) -/

/-- The deviation clamped to −T_dev..T_dev (R143). -/
def clampDeviation (tDev : Nat) (dev : Int) : Int := max (-(tDev : Int)) (min (tDev : Int) dev)

/-- The actual position of a cut, at least 0 (R143). R143 states no upper bound; that a position beyond 4,294,967,295 is kept
exactly is the model's choice (log 12). -/
def actualPosition (tDev target : Nat) (dev : Int) : Nat := ((target : Int) + clampDeviation tDev dev).toNat

/-- The deviation was clamped, or the position raised to 0 (R143). -/
def positionAdjusted (tDev target : Nat) (dev : Int) : Bool :=
  clampDeviation tDev dev != dev || decide ((target : Int) + clampDeviation tDev dev < 0)

/-- What a reported cut makes of the glass before it: the kind and the start of the piece, and whether the cut's row is
kept and named in the piece (the table of R143). -/
structure Formed where
  kind : PieceKind
  start : Option Nat
  keepsRow : Bool
  deriving DecidableEq, Repr

/-- The first row of the table of R143 that applies. -/
def formPiece (d : Dispatcher) (c : Cut) (a : Nat) : Formed :=
  match d.aLast with
  | none => if c.kind = .head then ⟨.head, none, false⟩ else ⟨.head, some d.headPos, false⟩
  | some last =>
    match d.merged with
    | some m => ⟨.merged, m.start, false⟩
    | none => if a ≤ last then ⟨.merged, some last, false⟩ else ⟨c.kind, some last, true⟩

/-- The piece a reported cut hands to the grader (R147). -/
def pieceOf (c : Cut) (f : Formed) (a : Nat) : Piece where
  seq := c.seq
  kind := f.kind
  start := f.start
  stop := a
  row := if f.keepsRow then c.row else none
  pattern := if f.keepsRow then c.pattern else none

/-- A DONE with outcome OK on the head, with the actual position `a` (R143). -/
def executeHead (c : Cut) (rest : List Cut) (a : Nat) (s : State) : State :=
  let f := formPiece s.dispatcher c a
  let folded := if f.keepsRow then s else foldCutRow c s
  rearmExpiry
    { folded with
      dispatcher := { folded.dispatcher with cuts := rest, aLast := some a, merged := none }
      grader := { folded.grader with queue := folded.grader.queue ++ [pieceOf c f a] } }

/-! ## The routing list (R148) -/

/-- An entry is appended to the routing list; a full list loses its oldest entry unread (R148). -/
def appendRoute (e : RouteEntry) (s : State) : State :=
  let d := s.dispatcher
  if d.routing.length < Config.routingCapacity then
    { s with dispatcher := { d with routing := d.routing ++ [e] } }
  else
    raise .routeLost
      ({ s with dispatcher := { d with routing := d.routing.drop 1 ++ [e], routeLost := bump d.routeLost } }.count
        fun x => { x with routeLost := bump x.routeLost })

end Sys2Proof.Machine
end

