-- ==== Sys2Proof/Machine/MapOps.lean ====
section
/-!
DEFINITION. The ribbon map: the flaw map's order, numbering and overflow (sections 5.2, 5.3), the blind span list
(section 5.4), and release (R90).
-/

namespace Sys2Proof.Machine

/-! ## Blind spans (R85 to R87) -/

/-- A span overlaps or touches [first, last] (R86). -/
def Span.touches (first last : Nat) (x : Span) : Bool := x.first ≤ last + 1 && first ≤ x.last + 1

/-- One span of two: from the smaller from to the larger to, with the union of the causes (R86, R87). -/
def Span.join (x y : Span) : Span := ⟨min x.first y.first, max x.last y.last, x.causes ||| y.causes⟩

/-- A span put at its place in the order. -/
def insertSpan (x : Span) (spans : List Span) : List Span := insertOrdered (fun a b => a.first < b.first) x spans

/-- The overflow merge of a span that touches none of a full list: the neighbour with the smaller gap takes it in, the
one before when both gaps are equal (R87). -/
def mergeNearest (x : Span) : List Span → List Span
  | [] => [x]
  | [y] => [x.join y]
  | y :: z :: rest =>
    if x.first < y.first then x.join y :: z :: rest
    else if z.first < x.first then y :: mergeNearest x (z :: rest)
    else if x.first - y.last ≤ z.first - x.last then x.join y :: z :: rest
    else y :: x.join z :: rest

/-- The list after an addition, and whether an overflow merge was made (R86, steps 2 to 5). -/
def mergeSpan (x : Span) (spans : List Span) : List Span × Bool :=
  let found := spans.filter (Span.touches x.first x.last)
  if !found.isEmpty then
    (insertSpan (found.foldl Span.join x) (spans.filter fun y => !y.touches x.first x.last), false)
  else if spans.length < Config.spanCapacity then (insertSpan x spans, false)
  else (mergeNearest x spans, true)

/-- A span is added to the blind span list (R86); an overflow merge raises SPANMERGE (R87). -/
def addSpan (first last : Nat) (cause : SpanCause) (s : State) : State :=
  let x : Span := ⟨min first Config.rcMax, min last Config.rcMax, cause.bit⟩
  if x.last < s.map.eClosed then s
  else
    let merged := mergeSpan x s.map.spans
    let s' := { s with map := { s.map with spans := merged.1 } }
    if merged.2 then raise .spanMerge s' else s'

/-! ## The flaw map (R81 to R84) -/

/-- Map order: by first_row, then by flaw number (R81). -/
def FlawRecord.precedes (a b : FlawRecord) : Bool :=
  a.firstRow < b.firstRow || (a.firstRow == b.firstRow && a.number < b.number)

/-- A record of the map carries the number. -/
def carriesNumber (flaws : List FlawRecord) (n : Nat) : Bool := flaws.any fun f => f.number == n

/-- The first number from `n` on, in `tries` tries, that no record carries (R82). -/
def firstFreeNumber (flaws : List FlawRecord) : Nat → Nat → Nat
  | 0, n => n
  | tries + 1, n => if carriesNumber flaws n then firstFreeNumber flaws tries (wrapSucc n) else n

/-- A flaw is numbered and stored (R82, R83). A map of k records holds a free number within k + 1 tries. -/
def RibbonMap.store (f : FlawRecord) (m : RibbonMap) : RibbonMap :=
  let number := firstFreeNumber m.flaws m.flaws.length m.nextNumber
  { m with
    flaws := insertOrdered FlawRecord.precedes { f with number := number } m.flaws
    nextNumber := wrapSucc number }

/-- A FAINT flaw is not stored, or a FAINT record is evicted (R84, R170). -/
def countFaintDropped (s : State) : State := s.count fun c => { c with faintDropped := bump c.faintDropped }

/-- A record of class FAINT, which gives way to a flaw of a higher class (R84). -/
def FlawRecord.isFaint (f : FlawRecord) : Bool := f.cls == .faint

/-- A flaw is handed over to the map (R83, R84). -/
def handOver (f : FlawRecord) (s : State) : State :=
  if s.map.flaws.length < Config.mapCapacity then { s with map := s.map.store f }
  else if f.isFaint then countFaintDropped s
  else if s.map.flaws.any FlawRecord.isFaint then
    countFaintDropped
      { s with map := { s.map with flaws := s.map.flaws.eraseP FlawRecord.isFaint }.store f }
  else
    raise .mapFull
      (addSpan f.firstRow f.lastRow .mapFull (s.count fun c => { c with mapFull := bump c.mapFull }))

/-! ## Release and line clear (R89, R90) -/

/-- A piece that ends at `e` is released to the map (R90). R90 states no width for E_closed; that an end beyond 4,294,967,295
is kept and compared exactly is the model's choice (log 12). -/
def RibbonMap.release (e : Nat) (m : RibbonMap) : RibbonMap :=
  let boundary := max m.eClosed e
  { m with
    eClosed := boundary
    flaws := m.flaws.filter fun f => boundary ≤ f.lastRow
    spans := m.spans.filter fun x => boundary ≤ x.last }

/-- The map's part of line clear, with P at `p` (R89). -/
def RibbonMap.lineClear (p : Nat) (m : RibbonMap) : RibbonMap := { m with flaws := [], spans := [], w := p, eClosed := p }

end Sys2Proof.Machine
end

