-- ==== Sys2Proof/Machine/AssemblerOps.lean ====
section
/-!
DEFINITION. The lane references (section 3.6) and the flaw assembler: the join test, joins and merges, the closing
sequence, forced closes and sweeps (chapter 4).
-/

namespace Sys2Proof.Machine

/-! ## Lane references (R52 to R54) -/

/-- The reference of a lane and channel. -/
def RefTable.get (t : RefTable) (lane : Fin 12) : Channel → Reference
  | .t => t.t[lane]
  | .r => t.r[lane]

/-- The table with one reference replaced. -/
def RefTable.set (t : RefTable) (lane : Fin 12) (channel : Channel) (x : Reference) : RefTable :=
  match channel with
  | .t => { t with t := t.t.set lane x }
  | .r => { t with r := t.r.set lane x }

/-- The new level of a reference for a sample of level `sample` (R52). -/
def filterLevel (ku kd level sample : Nat) : Nat :=
  let s16 := 16 * sample
  if level < s16 then if ku = 0 then level else min 65520 (level + max 1 ((s16 - level) * ku / 256))
  else if s16 < level then if kd = 0 then level else level - max 1 ((level - s16) * kd / 256)
  else level

/-- A sample shapes a reference: its level, and its settle count (R52, R53). -/
def Reference.sample (ku kd sample : Nat) (x : Reference) : Reference :=
  ⟨filterLevel ku kd x.level sample, min Config.settledCount (x.settle + 1)⟩

/-- A reference whose settle count is 8 is settled (section 3.6). -/
def Reference.settled (x : Reference) : Bool := x.settle == Config.settledCount

/-- The difference of two numbers, without sign. -/
def distance (a b : Nat) : Nat := (a - b) + (b - a)

/-- The contrast index of a peak level against a reference (R54). -/
def contrastOf (x : Reference) (peak : Nat) : Nat :=
  if x.settled then min 255 (distance (16 * peak) x.level * 64 / max x.level 256) else 255

/-- A write that changes a lane's extent sets both of its settle counts to 0 (R50). -/
def RefTable.restart (lane : Fin 12) (t : RefTable) : RefTable :=
  ⟨t.t.set lane { t.t[lane] with settle := 0 }, t.r.set lane { t.r[lane] with settle := 0 }⟩

/-- The number of settled references (R48). -/
def RefTable.settledCount (t : RefTable) : Nat := t.t.toList.countP Reference.settled + t.r.toList.countP Reference.settled

/-! ## The detection being assembled -/

/-- A detection with its contrast index and its mark, as the assembler receives it (R54). -/
structure Measured where
  d : Detection
  contrast : Nat
  unsettled : Bool
  deriving DecidableEq, Repr

/-- The detection measured against the reference of its lane and channel (R54). -/
def measure (refs : RefTable) (d : Detection) : Measured :=
  let x := refs.get d.lane d.channel
  ⟨d, contrastOf x d.peak, !x.settled⟩

/-- The last row a detection covers (section 4.2). R55 and R80 do not say what becomes of it beyond 4,294,967,295; that it is
kept exactly, also as the last row of a flaw, is the model's choice (log 12). -/
def Detection.lastRow (d : Detection) : Nat := d.row + d.band - 1

/-- The join test (R62), exactly. -/
def joinTest (conf : Conf) (d : Detection) (f : OpenFlaw) : Bool :=
  d.row ≤ f.lastRow + conf.gapTol && f.firstRow ≤ d.lastRow + conf.gapTol &&
    (d.xStart ≤ f.xMax + conf.joinTol && f.xMin ≤ d.xStart + d.width + conf.joinTol)

/-- An area in 0..65535 mm², saturating (R55). -/
def areaSat (n : Nat) : Nat := min 65535 n

/-- A detection opens a flaw (R65). -/
def openFlaw (m : Measured) (stamp : Nat) (late : Bool) : OpenFlaw where
  firstRow := m.d.row
  lastRow := m.d.lastRow
  xMin := m.d.xStart
  xMax := m.d.xStart + m.d.width
  contrast := m.contrast
  kind := m.d.kind
  stamp := stamp
  area := areaSat (m.d.width * m.d.band)
  seenT := m.d.channel == .t
  seenR := m.d.channel == .r
  late := late
  unsettled := m.unsettled

/-- A detection joins a flaw (R63); a late detection marks it late (R61). -/
def OpenFlaw.join (m : Measured) (stamp : Nat) (late : Bool) (f : OpenFlaw) : OpenFlaw :=
  let higher := f.contrast < m.contrast
  { firstRow := min f.firstRow m.d.row
    lastRow := max f.lastRow m.d.lastRow
    xMin := min f.xMin m.d.xStart
    xMax := max f.xMax (m.d.xStart + m.d.width)
    contrast := if higher then m.contrast else f.contrast
    kind := if higher then m.d.kind else f.kind
    stamp := if higher then stamp else f.stamp
    area := areaSat (f.area + m.d.width * m.d.band)
    seenT := f.seenT || m.d.channel == .t
    seenR := f.seenR || m.d.channel == .r
    late := f.late || late
    unsettled := f.unsettled || m.unsettled }

/-- Two flaws become one (R64): the higher contrast gives the kind, and among equals the smaller kind stamp. The first
keeps it when the stamps are equal too (log 23). -/
def OpenFlaw.merge (f g : OpenFlaw) : OpenFlaw :=
  let gGives := decide (f.contrast < g.contrast) || (f.contrast == g.contrast && g.stamp < f.stamp)
  { firstRow := min f.firstRow g.firstRow
    lastRow := max f.lastRow g.lastRow
    xMin := min f.xMin g.xMin
    xMax := max f.xMax g.xMax
    contrast := if gGives then g.contrast else f.contrast
    kind := if gGives then g.kind else f.kind
    stamp := if gGives then g.stamp else f.stamp
    area := areaSat (f.area + g.area)
    seenT := f.seenT || g.seenT
    seenR := f.seenR || g.seenR
    late := f.late || g.late
    unsettled := f.unsettled || g.unsettled }

/-! ## The open flaw table -/

/-- A slot of the table with the flaw it holds. -/
structure Slotted where
  slot : Fin 32
  flaw : OpenFlaw
  deriving DecidableEq, Repr

/-- The open flaws, in slot order. -/
def FlawTable.openFlaws (t : FlawTable) : List Slotted :=
  (List.finRange 32).filterMap fun i => t.slots[i].map fun f => ⟨i, f⟩

/-- The lowest-numbered free slot. -/
def FlawTable.freeSlot (t : FlawTable) : Option (Fin 32) := (List.finRange 32).find? fun i => t.slots[i].isNone

/-- Put a flaw in a slot. -/
def FlawTable.put (i : Fin 32) (f : OpenFlaw) (t : FlawTable) : FlawTable := { t with slots := t.slots.set i (some f) }

/-- Free a slot. -/
def FlawTable.free (i : Fin 32) (t : FlawTable) : FlawTable := { t with slots := t.slots.set i none }

/-- The next assembly number (R55). -/
def nextAssembly (n : Nat) : Nat := if n < Config.rcMax then n + 1 else 0

/-- The element of a list that a key puts first, the earliest in the list among equals. -/
def leastBy {α : Type} (key : α → Nat) (x : α) (xs : List α) : α :=
  xs.foldl (fun best y => if key y < key best then y else best) x

/-- The flaw of a full table that a forced close takes: the one with the smallest last_row, in the lowest-numbered slot
among equals (R66). -/
def earliestEnding (x : Slotted) (xs : List Slotted) : Slotted := leastBy (fun y => y.flaw.lastRow) x xs

/-! ## The closing sequence (section 4.4) -/

/-- A flaw as the closing sequence judges it (R71 to R77). -/
structure Judged where
  xMin : Nat
  xMax : Nat
  clipped : Bool
  generation : Nat
  size : Nat
  cls : FlawClass
  points : Nat
  deriving DecidableEq, Repr

/-- A border flaw lies wholly outside the net zone (R71). -/
def OpenFlaw.isBorder (zone : Across) (f : OpenFlaw) : Bool := f.xMax < zone.xl || zone.xr < f.xMin

/-- A generation plus one, with 0 following 255 (R73, R110). -/
def nextGeneration (g : Nat) : Nat := if g < 255 then g + 1 else 0

/-- The recipe that judges a flaw, and the generation it carries (R73). -/
def RecipeStore.chosen (store : RecipeStore) (f : OpenFlaw) : Recipe × Nat :=
  match store.armedAt with
  | some a =>
    if a ≤ f.firstRow ∧ !f.late then (store.pending, nextGeneration store.generation)
    else (store.current, store.generation)
  | none => (store.current, store.generation)

/-- The class (R76). -/
def classify (e : KindEntry) (contrast size : Nat) : FlawClass :=
  if contrast < e.gate then .faint
  else if e.scrit ≤ size then .critical
  else if e.smaj ≤ size then .major
  else if e.smin ≤ size then .minor
  else .faint

/-- The points (R77). -/
def pointsOf (e : KindEntry) (cls : FlawClass) (contrast size : Nat) : Nat :=
  if cls = .faint then 0 else min 4095 (e.weight * (size + 1) * (contrast + 32) / 2048)

/-- Steps 1 to 5 of the closing sequence; none for a border flaw (R70, R78). -/
def judge (zone : Across) (store : RecipeStore) (f : OpenFlaw) : Option Judged :=
  if f.isBorder zone then none
  else
    let xMin := max f.xMin zone.xl
    let xMax := min f.xMax zone.xr
    let size := min 65535 (max (f.lastRow - f.firstRow + 1) (xMax - xMin + 1))
    let entry := (store.chosen f).1.kinds[f.kind.code]
    let cls := classify entry f.contrast size
    some
      { xMin := xMin
        xMax := xMax
        clipped := decide (f.xMin < zone.xl) || decide (zone.xr < f.xMax)
        generation := (store.chosen f).2
        size := size
        cls := cls
        points := pointsOf entry cls f.contrast size }

/-- The record handed to the map (R70); the map gives it its number (R82). -/
def recordOf (f : OpenFlaw) (j : Judged) (forced : Bool) : FlawRecord where
  number := 0
  firstRow := f.firstRow
  lastRow := f.lastRow
  xMin := j.xMin
  xMax := j.xMax
  kind := f.kind
  cls := j.cls
  contrast := f.contrast
  size := j.size
  points := j.points
  area := f.area
  generation := j.generation
  seenT := f.seenT
  seenR := f.seenR
  forced := forced
  late := f.late
  clipped := j.clipped
  unsettled := f.unsettled

/-- The closing sequence on a flaw's record (R70): the counts, and the hand-off unless it is a border flaw or lies behind
E_closed. -/
def closeRecord (f : OpenFlaw) (forced : Bool) (s : State) : State :=
  match judge s.conf.netZone s.recipes f with
  | none => s.count fun c => { c with border := bump c.border }
  | some j =>
    let counted := s.count (Counts.addFlaw f.kind j.cls)
    if f.lastRow < s.map.eClosed then counted else handOver (recordOf f j forced) counted

/-- An open flaw is closed, and its slot freed (R70). -/
def closeFlaw (forced : Bool) (x : Slotted) (s : State) : State :=
  let s' := closeRecord x.flaw forced s
  { s' with assembler := s'.assembler.free x.slot }

/-- The forced close (R66). -/
def forceClose (x : Slotted) (s : State) : State :=
  let closed := closeFlaw true x (raise .forced (s.count fun c => { c with forcedCloses := bump c.forcedCloses }))
  if x.flaw.isBorder s.conf.netZone then closed
  else addSpan x.flaw.firstRow (x.flaw.lastRow + s.conf.gapTol) .forced closed

/-- The watermark has passed a flaw: last_row + G lies below W (R61, R67). -/
def State.passed (s : State) (f : OpenFlaw) : Bool := f.lastRow + s.conf.gapTol < s.map.w

/-- The flaws a sweep closes, in ascending first_row and slot order (R67). -/
def State.sweepList (s : State) : List Slotted :=
  sortOrdered (fun x y => x.flaw.firstRow < y.flaw.firstRow) (s.assembler.openFlaws.filter fun x => s.passed x.flaw)

/-- The closing sweep (R67). -/
def sweep (s : State) : State := s.sweepList.foldl (fun s x => closeFlaw false x s) s

/-! ## Assembling a detection (R59 to R66) -/

/-- A detection that matches no open flaw opens one, after a forced close when every slot is occupied (R65, R66). The
slot it opens is given too. (A table with no free slot holds open flaws, so the middle case never arises.) -/
def openNew (m : Measured) (late : Bool) (s : State) : State × Slotted :=
  let f := openFlaw m s.assembler.assembly late
  match s.assembler.freeSlot, s.assembler.openFlaws with
  | some i, _ => ({ s with assembler := s.assembler.put i f }, ⟨i, f⟩)
  | none, [] => (s, ⟨0, f⟩)
  | none, x :: xs =>
    let forced := earliestEnding x xs
    let s' := forceClose forced s
    ({ s' with assembler := s'.assembler.put forced.slot f }, ⟨forced.slot, f⟩)

/-- A detection joins the flaws it matches: the one with the smallest first_row is kept, in the lowest-numbered slot
among equals, and the others are merged into it (R63, R64). -/
def joinMatched (m : Measured) (late : Bool) (x : Slotted) (xs : List Slotted) (s : State) : State × Slotted :=
  let kept := leastBy (fun y => y.flaw.firstRow) x xs
  let others := (x :: xs).filter fun y => y.slot != kept.slot
  let merged := (others.foldl (fun f y => f.merge y.flaw) kept.flaw).join m s.assembler.assembly late
  let freed := others.foldl (fun t y => t.free y.slot) s.assembler
  ({ s with assembler := freed.put kept.slot merged }, ⟨kept.slot, merged⟩)

/-- A detection is assembled into the table and takes the next assembly number (R55, R59). -/
def assemble (m : Measured) (late : Bool) (s : State) : State × Slotted :=
  let r := match s.assembler.openFlaws.filter fun x => joinTest s.conf m.d x.flaw with
    | [] => openNew m late s
    | x :: xs => joinMatched m late x xs s
  ({ r.1 with assembler := { r.1.assembler with assembly := nextAssembly r.1.assembler.assembly } }, r.2)

/-- The effects of a DETECTION entry (R59 to R61). -/
def completeDetection (d : Detection) (s : State) : State :=
  let m := measure s.refs d
  if d.row < s.map.w then
    if d.lastRow < s.map.eClosed then
      raise .late (s.count fun c => { c with lateDropped := bump c.lateDropped })
    else
      let r := assemble m true (raise .late (s.count fun c => { c with late := bump c.late }))
      if r.1.passed r.2.flaw then closeFlaw false r.2 r.1 else r.1
  else (assemble m false s).1

/-- The effects of a BACKGROUND entry (R52, R53). -/
def completeBackground (lane : Fin 12) (channel : Channel) (level : Nat) (s : State) : State :=
  { s with refs := s.refs.set lane channel ((s.refs.get lane channel).sample s.conf.ku s.conf.kd level) }

/-- W moves to `m` when that lies beyond it, and a MARK that moves it arms STALE (R68). -/
def advanceToMark (m : Nat) (s : State) : State :=
  if s.map.w < m then
    { s with map := { s.map with w := m }, links := { s.links with staleArmed := true } }
  else s

/-- W after a GAP with its `last` clamped to P (R69). -/
def advanceToGap (last : Nat) (s : State) : State :=
  { s with map := { s.map with w := max s.map.w (min last s.travel.p) } }

end Sys2Proof.Machine
end

