-- ==== Sys2Proof/Machine/RecipeOps.lean ====
section
/-!
DEFINITION. The recipe store's promotion (R109).
-/

namespace Sys2Proof.Machine

/-- The promotion test at RC `a`: W ≥ a, and no open flaw has first_row below a (R109). -/
def State.promotes (s : State) (a : Nat) : Bool :=
  a ≤ s.map.w && s.assembler.openFlaws.all fun x => a ≤ x.flaw.firstRow

/-- The pending recipe becomes current, the generation increases, and the pending recipe is a disarmed copy (R109). -/
def RecipeStore.promote (r : RecipeStore) : RecipeStore := ⟨r.pending, r.pending, nextGeneration r.generation, none⟩

/-- A promotion, which raises RECIPE (R109). -/
def promote (s : State) : State := raise .recipe { s with recipes := s.recipes.promote }

/-- The test made after an arming and after every MARK or GAP completion (R109). -/
def promotionTest (s : State) : State :=
  match s.recipes.armedAt with
  | some a => if s.promotes a then promote s else s
  | none => s

end Sys2Proof.Machine
end

