-- ==== Sys2Proof/Machine/PlannerOps.lean ====
section
/-!
DEFINITION. The planner: the opening of a decision (section 7.4), the rejecters of a candidate and what they make of it
(section 7.6), the commit (section 7.5), and mode entry (R119, R183).
-/

namespace Sys2Proof.Machine

/-! ## The opening (R120, R184) -/

/-- A switch takes effect: its mode is in force, and MODE is set on all three links (R184). -/
def takeSwitch (s : State) : State :=
  match s.switch with
  | some m => raiseMode { s with mode := m, switch := none }
  | none => s

/-- What a PRODUCT course keeps of its order (R120). -/
def Order.course (o : Order) : ProductCourse := ⟨o.id, o.lp, o.short, o.pattern, o.grade, true⟩

/-- The earliest position of the sample list that is due at `start` (R120). -/
def dueSample (samples : List Nat) (start : Nat) : Option Nat :=
  match samples with
  | m :: _ => if m ≤ start then some m else none
  | [] => none

/-- The course of a decision: the first test of R120 that holds. -/
def State.courseAt (s : State) (start : Nat) : Course :=
  match dueSample s.production.samples start with
  | some m => .sample m true
  | none =>
    if s.mode = .cull then .cullMode
    else
      match activeOrder s.production.orders with
      | some o => .product o.course
      | none => .noOrder

/-- The decision opens: a switch takes effect, and then the course is fixed (R120, R184). -/
def openDecision (s : State) : State :=
  let s' := takeSwitch { s with travel := { s.travel with deadlineRaised := none } }
  { s' with planner := { s'.planner with state := .deciding, course := some (s'.courseAt s'.planner.s) } }

/-! ## Rejecters (R125, R126) -/

/-- The reject class (R125). -/
def rejectClass (g : Grade) (nb : Nat) : FlawClass :=
  match g with
  | .a => .major
  | .b => if nb = 0 then .major else .critical
  | _ => .critical

/-- The class is at or above another in FAINT < MINOR < MAJOR < CRITICAL (R76). -/
def FlawClass.atLeast (c bound : FlawClass) : Bool := bound.code ≤ c.code

/-- A rejecter with its inclusive along extent; `blind` says that it is a blind span, the uninspected tail or a mapped
flaw closed by a forced close, over which a cull row raises BLIND (R126, R131). -/
structure Rejecter where
  first : Nat
  last : Nat
  blind : Bool
  deriving DecidableEq, Repr

/-- The cross extent meets at least one column (R126). -/
def meetsColumns (xMin xMax : Nat) (columns : List Across) : Bool := columns.any (acrossMeets xMin xMax)

/-- The candidate a PRODUCT course is decided on. -/
structure Candidate where
  start : Nat
  stop : Nat
  columns : List Across
  grade : Grade
  deriving DecidableEq, Repr

/-- The mapped flaws that reject (R126). -/
def mappedRejecters (s : State) (c : Candidate) : List Rejecter :=
  (s.map.flaws.filter fun f =>
      f.cls.atLeast (rejectClass c.grade s.recipes.current.limits.nb) && alongMeets f.firstRow f.lastRow c.start c.stop &&
        meetsColumns f.xMin f.xMax c.columns).map
    fun f => ⟨f.firstRow, f.lastRow, f.forced⟩

/-- An open flaw rejects by its provisional class and its clipped extent (R78, R126). -/
def openRejects (s : State) (c : Candidate) (f : OpenFlaw) : Bool :=
  match judge s.conf.netZone s.recipes f with
  | some j =>
    j.cls.atLeast (rejectClass c.grade s.recipes.current.limits.nb) && alongMeets f.firstRow f.lastRow c.start c.stop &&
      meetsColumns j.xMin j.xMax c.columns
  | none => false

/-- The open flaws that reject (R126). -/
def openRejecters (s : State) (c : Candidate) : List Rejecter :=
  (s.assembler.openFlaws.filter fun x => openRejects s c x.flaw).map fun x => ⟨x.flaw.firstRow, x.flaw.lastRow, false⟩

/-- The blind spans that meet [start, stop) along. -/
def State.spansMeeting (s : State) (start stop : Nat) : List Span :=
  s.map.spans.filter fun x => alongMeets x.first x.last start stop

/-- The blind spans and the uninspected tail, which reject under blind policy CULL (R126). -/
def blindRejecters (s : State) (c : Candidate) : List Rejecter :=
  match s.recipes.current.policy with
  | .pass => []
  | .cull =>
    (s.spansMeeting c.start c.stop).map (fun x => ⟨x.first, x.last, true⟩) ++
      (if s.map.w < c.stop then [⟨max c.start s.map.w, c.stop - 1, true⟩] else [])

/-- The rejecters of a candidate (R126). -/
def rejecters (s : State) (c : Candidate) : List Rejecter :=
  mappedRejecters s c ++ openRejecters s c ++ blindRejecters s c

/-! ## The cull chain (R129) -/

/-- The smallest start among rejecters. -/
def firstStart (r : Rejecter) (rs : List Rejecter) : Nat := rs.foldl (fun m x => min m x.first) r.first

/-- One pass of the chain: every rejecter that starts below e + Cmin is taken in. -/
def chainPass (cmin : Nat) (rs : List Rejecter) (e : Nat) : Nat :=
  rs.foldl (fun e x => if x.first < e + cmin then max e (x.last + 1) else e) e

/-- The chain's end after so many passes. A pass that takes in no further rejecter changes nothing, so as many passes as
rejecters reach the end of R129. -/
def chainEnd (cmin : Nat) (rs : List Rejecter) : Nat → Nat → Nat
  | 0, e => e
  | passes + 1, e => chainEnd cmin rs passes (chainPass cmin rs e)

/-- The end of the cull chain of the rejecters `r :: rs` (R129). -/
def cullChain (cmin : Nat) (r : Rejecter) (rs : List Rejecter) : Nat :=
  let begun := (leastBy Rejecter.first r rs).last + 1
  chainEnd cmin (r :: rs) (r :: rs).length begun

/-! ## The row (R123, R124, R127 to R131) -/

/-- A row as it is decided, before it takes its id. -/
structure Decided where
  stop : Nat
  kind : PieceKind
  order : Option Nat
  pattern : Option (Fin 8)
  k : Nat
  orderPlates : Nat
  forced : Bool
  unverified : Bool
  blind : Bool
  deriving DecidableEq, Repr

/-- The CULL row of a CULL-MODE or NO-ORDER course: it has no flags and is not blind (R124). -/
def cullRow (stop : Nat) : Decided := ⟨stop, .cull, none, none, 0, 0, false, false, false⟩

/-- The row ends beyond W, or a blind span meets it along: the glass is not fully inspected (R123, R127). -/
def State.notInspected (s : State) (start stop : Nat) : Bool :=
  decide (s.map.w < stop) || !(s.spansMeeting start stop).isEmpty

/-- The CULL row of a PRODUCT course: it has the flags of R117 as they stand at the commit (R131, R133; log 26). -/
def productCullRow (s : State) (stop : Nat) (blind : Bool) : Decided :=
  { cullRow stop with
    forced := decide (s.map.w < stop)
    unverified := s.notInspected s.planner.s stop
    blind := blind }

/-- The row of a SAMPLE course (R123). -/
def sampleRow (s : State) : Decided :=
  let start := s.planner.s
  let stop := start + s.conf.ls
  let unverified := s.notInspected start stop
  ⟨stop, .sample, none, none, 1, 0, decide (s.map.w < stop), unverified, unverified⟩

/-- The order plates of a PRODUCT row of k plates (R128). -/
def reserved (s : State) (c : ProductCourse) (k : Nat) : Nat :=
  if c.present then
    match s.production.order c.order with
    | some o => if o.state = .opened then min k o.need else 0
    | none => 0
  else 0

/-- A PRODUCT or SHORT row up to `stop` (R127, R130). -/
def plateRow (s : State) (c : ProductCourse) (kind : PieceKind) (stop k orderPlates : Nat) : Decided :=
  let start := s.planner.s
  let unverified := s.recipes.current.policy == .pass && s.notInspected start stop
  ⟨stop, kind, some c.order, some c.pattern, k, orderPlates, decide (s.map.w < stop), unverified, unverified⟩

/-- The length of the SHORT row a candidate with its first rejecter at `f` leaves room for (R130). -/
def shortFits (c : ProductCourse) (start f : Nat) (rs : List Rejecter) : Option Nat :=
  match c.short with
  | some length =>
    if length ≤ f - start ∧ !(rs.any fun r => alongMeets r.first r.last start (start + length)) then some length else none
  | none => none

/-- The CULL row that carries a chain of rejecters away (R131). -/
def chainRow (s : State) (r : Rejecter) (rs : List Rejecter) : Decided :=
  let start := s.planner.s
  let e := cullChain s.conf.cmin r rs
  let c := max s.conf.cmin (min s.conf.cmax (e + s.conf.cullMargin - start))
  productCullRow s (start + c) ((r :: rs).any fun x => x.blind && alongMeets x.first x.last start (start + c))

/-- The row of a PRODUCT course (R127 to R131, R133; log 16). -/
def productRow (s : State) (c : ProductCourse) : Decided :=
  let start := s.planner.s
  let columns := s.production.patterns[c.pattern]
  if columns.isEmpty then productCullRow s (start + s.conf.cmax) false
  else
    match rejecters s ⟨start, start + c.lp, columns, c.grade⟩ with
    | [] => plateRow s c .product (start + c.lp) columns.length (reserved s c columns.length)
    | r :: rs =>
      match shortFits c start (max start (firstStart r rs)) (r :: rs) with
      | some length => plateRow s c .short (start + length) columns.length 0
      | none => chainRow s r rs

/-- The row of a course (R122). -/
def decidedRow (s : State) : Course → Decided
  | .sample _ _ => sampleRow s
  | .cullMode => cullRow (s.planner.s + s.conf.cmax)
  | .noOrder => cullRow (s.planner.s + s.conf.cmax)
  | .product c => productRow s c

/-! ## The commit (R122) -/

/-- The row as the row table holds it (R117). -/
def Decided.row (d : Decided) (id start : Nat) : Row where
  id := id
  start := start
  stop := d.stop
  kind := d.kind
  order := d.order
  pattern := d.pattern
  k := d.k
  orderPlates := d.orderPlates
  forced := d.forced
  unverified := d.unverified
  left := false

/-- The row's order plates are reserved on its order (R96, R128). -/
def reservePlates (order : Option Nat) (plates : Nat) (p : Production) : Production :=
  match order with
  | some id => if plates = 0 then p else p.updateOrder id fun o => { o with inFlight := o.inFlight + plates }
  | none => p

/-- A SAMPLE row's position leaves the sample list, unless it has left it since the opening (R122, R123). -/
def dropDueSample (course : Course) (samples : List Nat) : List Nat :=
  match course with
  | .sample m true => samples.erase m
  | _ => samples

/-- A blind row raises BLIND and is counted (R122). -/
def countBlind (s : State) : State := raise .blind (s.count fun c => { c with blindRows := bump c.blindRows })

/-- The commit of a course's row (R122). -/
def commitRow (course : Course) (s : State) : State :=
  let p := s.planner
  let d := decidedRow s course
  let placed :=
    { s with
      planner :=
        { p with
          state := .armed
          s := d.stop
          nextRowId := wrapSucc p.nextRowId
          course := none
          rows := p.rows ++ [d.row p.nextRowId p.s] }
      production :=
        { reservePlates d.order d.orderPlates s.production with samples := dropDueSample course s.production.samples } }
  let cut := appendCut d.stop d.kind d.pattern (some p.nextRowId) placed
  armDeadline d.stop (if d.blind then countBlind cut else cut)

/-- The row table has a free slot (R118). -/
def Planner.hasSlot (p : Planner) : Bool := p.rows.length < Config.rowCapacity

/-- The decision completes: the commit, or HELD when the row table is full (R122). -/
def completeDecision (course : Course) (s : State) : State :=
  if s.planner.hasSlot then commitRow course s else { s with planner := { s.planner with state := .held } }

/-! ## Mode entry (R119, R183) -/

/-- The plan start of a mode entry: max(0, P − D_cut + D_commit, E_closed) (R119). -/
def State.entryStart (s : State) : Nat := max (s.travel.p + s.conf.dCommit - s.conf.dCut) s.map.eClosed

/-- The planner's part of a mode entry: the head cut, and the compare armed with s (R119, R137). -/
def enterPlanner (s : State) : State :=
  let start := s.entryStart
  armDeadline start
    (appendCut start .head none none
      { s with
        planner := { s.planner with state := .armed, s := start }
        dispatcher := { s.dispatcher with headPos := start } })

/-- A mode entry (R183). -/
def enterMode (m : Mode) (s : State) : State :=
  evaluateStale (enterPlanner (raiseMode { s with mode := m, switch := none }))

end Sys2Proof.Machine
end

