-- ==== Sys2Proof/Machine/Due.lean ====
section
/-!
DEFINITION. The steps that are due at once, and how a step of a block runs. A rule that says what happens when a condition
comes true (the stopped flag, the step of the time of day, the held commit) leaves no moment at which another event could
find the condition true and the effect not made; the table of operations has a row for each of these steps, which performs
it, and every other command first performs what is due (log 4, log 6).
-/

namespace Sys2Proof.Machine

/-- The stopped flag is set when it is due (R12). -/
def settleStop (s : State) : State := if s.stopIsDue then setStopped s else s

/-- The time of day steps when it is due (R13). -/
def settleStep (s : State) : State := if s.travel.stepDue then stepTime s else s

/-- A held commit is due as soon as the row table has a free slot (R122). -/
def State.heldIsDue (s : State) : Bool := s.planner.state == .held && s.planner.hasSlot

/-- The held commit of the course of the decision (R122). -/
def makeHeldCommit (s : State) : State :=
  match s.planner.course with
  | some c => asEvent (commitRow c) s
  | none => s

/-- The held commit is made when it is due (R122). -/
def settleHeld (s : State) : State := if s.heldIsDue then makeHeldCommit s else s

/-- Everything that is due is done: the stopped flag first, so that a step at the same tick is handed with it (R13; log
6). -/
def settle (s : State) : State := settleHeld (settleStep (settleStop s))

/-- Nothing is due. -/
def State.quiet (s : State) : Bool := !s.stopIsDue && !s.travel.stepDue && !s.heldIsDue

/-- A step of a block is one event; while the internal reset is asserted no block works (R188). -/
def blockStep (f : State → State) (s : State) : Host.Outcome State Fault Refusal :=
  .next (if s.inReset then s else asEvent f (settle s))

/-- A step that is due does what is due of its own kind, and nothing while the internal reset is asserted. -/
def dueStep (f : State → State) (s : State) : Host.Outcome State Fault Refusal := .next (if s.inReset then s else f s)

end Sys2Proof.Machine
end

