-- ==== Sys2Proof/Machine/Transfers.lean ====
section
/-!
DEFINITION. A transfer on a link: what it shifts out (R19), the checks a command passes before it acts (R18, R22 to R25),
and the response it leaves pending.
-/

namespace Sys2Proof.Machine

/-! ## Shifting out (R19) -/

/-- The first `n` words of a response; every word after it is 0000h (R19, R20). -/
def Response.shiftOut (n : Nat) (r : Response) : List Word := ((r.status :: r.data) ++ List.replicate n 0).take n

/-- A transfer of `n` complete words shifts out the pending response; its words are what the master read (log 7). -/
def shiftOut (l : Link) (n : Nat) (s : State) : State :=
  s.setLink l { s.link l with shifted := (s.link l).pending.shiftOut n }

/-- While the internal reset is asserted the data-out line drives 0 (R188). -/
def shiftZeros (l : Link) (n : Nat) (s : State) : State :=
  s.setLink l { s.link l with shifted := List.replicate n 0 }

/-- The response of the command becomes the pending response (R19). -/
def setPending (l : Link) (r : Response) (s : State) : State := s.setLink l { s.link l with pending := r }

/-- A transfer that carries a command: the old response is shifted out, the command is taken whole, and its response
becomes pending (R17 to R19). While the internal reset is asserted the transfer is ignored (R35, R188). R19 does not say what
a gantry or cutter transfer shifts out when a RESTART falls into it; that the pending response is read at the release of
select, so that all of it reads 0000h, is the model's choice (log 7). -/
def transfer (l : Link) (b : Body) (act : State → State × Response) (s : State) : Host.Outcome State Fault Refusal :=
  .next
    (if s.inReset then shiftZeros l (b.data.length + 1) s
    else
      let read := shiftOut l (b.data.length + 1) (settle s)
      let r := act read
      setPending l r.2 (setRisenLevels read r.1))

/-! ## Acceptance (R18, R23 to R25) -/

/-- A command's entry in the acceptance table: its code, the link it belongs to (none: every link), the modes that accept
it, and its fixed data words. -/
structure Acceptance where
  code : Byte
  owner : Option Link
  accepts : Mode → Bool
  fixed : Nat

/-- Accepted in every mode. -/
def anyMode (_ : Mode) : Bool := true

/-- Refused in SETUP. -/
def notSetup (m : Mode) : Bool := m != .setup

/-- Accepted in SETUP alone. -/
def onlySetup (m : Mode) : Bool := m == .setup

/-- The command belongs to the link (R24). -/
def Acceptance.belongs (a : Acceptance) (l : Link) : Bool :=
  match a.owner with
  | some o => o == l
  | none => true

/-- The first check of R18 that fails, after the code's own. -/
def Acceptance.refusal (a : Acceptance) (l : Link) (b : Body) (m : Mode) : Option Reason :=
  if !a.belongs l then some .link
  else if !a.accepts m then some .mode
  else if b.data.length < a.fixed then some .short
  else none

/-- The response of a command: refused by a check of R18, or what its own meaning replies. -/
def respond (a : Acceptance) (l : Link) (b : Body) (act : State → State × Reply) (s : State) : State × Response :=
  match a.refusal l b s.mode with
  | some why => (s, (Reply.refused why).response a.code)
  | none => ((act s).1, (act s).2.response a.code)

/-- A command on a link. -/
def command (a : Acceptance) (l : Link) (b : Body) (act : State → State × Reply) (s : State) :
    Host.Outcome State Fault Refusal :=
  transfer l b (respond a l b act) s

/-- A command of the gantry link (R24). -/
def gantryEntry (code : Byte) (accepts : Mode → Bool) (fixed : Nat) : Acceptance := ⟨code, some .gantry, accepts, fixed⟩

/-- A command of the cutter link, accepted in every mode (R24, R25). -/
def cutterEntry (code : Byte) (fixed : Nat) : Acceptance := ⟨code, some .cutter, anyMode, fixed⟩

/-- A command of the supervisor link (R24). -/
def supervisorEntry (code : Byte) (accepts : Mode → Bool) (fixed : Nat) : Acceptance :=
  ⟨code, some .supervisor, accepts, fixed⟩

/-- A command of every link, accepted in every mode (R24, R25). -/
def commonEntry (code : Byte) (fixed : Nat) : Acceptance := ⟨code, none, anyMode, fixed⟩

/-- A command that changes nothing and replies. -/
def answer (r : State → Reply) (s : State) : State × Reply := (s, r s)

end Sys2Proof.Machine
end

