-- ==== Sys2Proof/Machine/AccountsCommands.lean ====
section
/-!
DEFINITION. TIME (R14), and the shift accounts' commands SHIFTS, SHIFT_CLOSE and REPORT (chapter 10).
-/

namespace Sys2Proof.Machine

/-! ## TIME (R14) -/

/-- The time of day is set; it is no step (R14). That the tick which would have stepped, taken after it, counts as any other
tick and leaves the millisecond count at 1 is the model's choice (log 27). -/
def setTime (seconds : Nat) (s : State) : State × Reply :=
  if Config.daySeconds ≤ seconds then (s, Reply.refused .range)
  else ({ s with travel := { s.travel with seconds := seconds, ms := 0 } }, Reply.done [])

/-- TIME (R14). -/
def execTime (l : Link) (_arg : Byte) (b : Body) (s : State) : Host.Outcome State Fault Refusal :=
  command (supervisorEntry 0x32 anyMode 2) l b (setTime (value32At b.data 0)) s

/-! ## SHIFTS (R174) -/

/-- The twelve words of the shift start table (R174). -/
def shiftTableWords (table : Vector ShiftStart 4) : List Word :=
  table.toList.flatMap fun e => flagWord e.enabled :: words32 e.start

/-- An entry of the table as SHIFTS sends it. -/
structure RawShift where
  enable : Nat
  start : Nat
  deriving DecidableEq, Repr

/-- Entry `i` of the words of a SHIFTS write. -/
def rawShift (ws : List Word) (i : Nat) : RawShift := ⟨valueAt ws (3 * i), value32At ws (3 * i + 1)⟩

/-- The entry is in range (R174). -/
def RawShift.inRange (e : RawShift) : Bool := e.enable ≤ 1 && e.start < Config.daySeconds

/-- The entry as the table holds it. -/
def RawShift.entry (e : RawShift) : ShiftStart := ⟨e.enable == 1, e.start⟩

/-- Two enabled entries hold the same start time (R174). -/
def shiftsCollide : List ShiftStart → Bool
  | [] => false
  | e :: rest => (rest.any fun x => e.enabled && x.enabled && e.start == x.start) || shiftsCollide rest

/-- The table a SHIFTS write carries. -/
def writtenShifts (ws : List Word) : Vector ShiftStart 4 :=
  #v[(rawShift ws 0).entry, (rawShift ws 1).entry, (rawShift ws 2).entry, (rawShift ws 3).entry]

/-- Every entry of a SHIFTS write is in range (R174). -/
def shiftsInRange (ws : List Word) : Bool := [0, 1, 2, 3].all fun i => (rawShift ws i).inRange

/-- SHIFTS with argument 0 (R174). -/
def writeShifts (ws : List Word) (s : State) : State × Reply :=
  if !shiftsInRange ws then (s, Reply.refused .range)
  else if shiftsCollide (writtenShifts ws).toList then (s, Reply.refused .duplicate)
  else
    ({ s with accounts := { s.accounts with table := writtenShifts ws } },
      Reply.done (shiftTableWords (writtenShifts ws)))

/-- SHIFTS, a write of the table (R174). -/
def execShiftsWrite (l : Link) (b : Body) (s : State) : Host.Outcome State Fault Refusal :=
  command (supervisorEntry 0x33 anyMode 12) l b (writeShifts b.data) s

/-- SHIFTS with an argument other than 0 (R174). -/
def readShifts (arg : Byte) (s : State) : Reply :=
  if arg = 1 then Reply.done (shiftTableWords s.accounts.table) else Reply.refused .range

/-- SHIFTS, a read of the table, or an argument that is refused (R174; log 13). -/
def execShiftsRead (l : Link) (arg : Byte) (b : Body) (s : State) : Host.Outcome State Fault Refusal :=
  command (supervisorEntry 0x33 anyMode 0) l b (answer (readShifts arg)) s

/-! ## SHIFT_CLOSE (R177) -/

/-- The four words of SHIFT_CLOSE's response (R177). -/
def shiftCloseWords (s : State) : List Word :=
  word s.accounts.shift :: (words32 s.travel.seconds ++ [word s.accounts.counts.yield])

/-- SHIFT_CLOSE (R177): the shift closes with cause 4 at the time of day. -/
def execShiftClose (l : Link) (_arg : Byte) (b : Body) (s : State) : Host.Outcome State Fault Refusal :=
  command (supervisorEntry 0x3E anyMode 0) l b
    (fun s => (closeShift s.travel.seconds 4 s, Reply.done (shiftCloseWords s))) s

/-! ## REPORT (R178) -/

/-- Words 5 to 25 of a report (R178). -/
def reportTimesAndPlates (c : Counts) : List Word :=
  words32 c.runSeconds ++ words32 c.stoppedSeconds ++ [word c.lineStops] ++ c.byGrade.toList.map word ++
    c.byDest.toList.map word ++ words32 c.cullLength ++ words32 c.productArea ++ words32 c.totalArea

/-- Words 27 to 49 of a report (R178). -/
def reportFlawsAndLosses (c : Counts) : List Word :=
  c.byKind.toList.map word ++ c.byClass.toList.map word ++
    [word c.border, word c.faintDropped, word c.mapFull, word c.forcedCloses, word c.late, word c.lateDropped,
      word c.intakeDrops, word c.blindRows, word c.missed, word c.expired, word c.routeLost]

/-- The 49 words of a report (R178). -/
def Report.words (r : Report) : List Word :=
  word r.shift :: (words32 r.closeTime ++ [word r.cause] ++ reportTimesAndPlates r.counts ++ [word r.yield] ++
    reportFlawsAndLosses r.counts)

/-- REPORT by its argument (R178). -/
def readReport (k : Nat) (s : State) : Reply :=
  if 3 < k then Reply.refused .range
  else
    match s.accounts.reports[k]? with
    | some r => Reply.done r.words
    | none => Reply.refused .notFound

/-- REPORT (R178). -/
def execReport (l : Link) (arg : Byte) (b : Body) (s : State) : Host.Outcome State Fault Refusal :=
  command (supervisorEntry 0x3F anyMode 0) l b (answer (readReport arg.toNat)) s

end Sys2Proof.Machine
end

