-- ==== Sys2Proof/Machine/AssemblerSteps.lean ====
section
/-!
DEFINITION. The flaw assembler's steps: taking an entry (R37), and the completion of each kind of entry (R52, R59, R68,
R69).
-/

namespace Sys2Proof.Machine

/-- The idle assembler takes the oldest entry (R37). -/
def Intake.takeOldest (q : Intake) : Intake :=
  match q.inProcess, q.queue with
  | none, e :: rest => { q with queue := rest, inProcess := some e }
  | _, _ => q

/-- ENTRY_TAKE (R37). -/
def execEntryTake (s : State) : Host.Outcome State Fault Refusal :=
  blockStep (fun s => { s with intake := s.intake.takeOldest }) s

/-- The assembler has completed its entry and is idle until it takes the next (R37). That the taking is a step of its own,
before which another step can come, is the model's choice (log 28). -/
def finishEntry (s : State) : State := { s with intake := { s.intake with inProcess := none } }

/-- The effects of a BACKGROUND entry in process (R52). -/
def backgroundCompletion (s : State) : State :=
  match s.intake.inProcess with
  | some (.background lane channel level) => completeBackground lane channel level (finishEntry s)
  | _ => s

/-- BACKGROUND_ENTRY_COMPLETE (R52, R53). -/
def execBackgroundEntryComplete (s : State) : Host.Outcome State Fault Refusal := blockStep backgroundCompletion s

/-- The effects of a DETECTION entry in process (R59). -/
def detectionCompletion (s : State) : State :=
  match s.intake.inProcess with
  | some (.detection d) => completeDetection d (finishEntry s)
  | _ => s

/-- DETECTION_ENTRY_COMPLETE (R54, R59 to R66). -/
def execDetectionEntryComplete (s : State) : Host.Outcome State Fault Refusal := blockStep detectionCompletion s

/-- The effects of a MARK entry: W, the sweep, and the promotion test (R68, R109). -/
def completeMark (m : Nat) (s : State) : State := promotionTest (sweep (advanceToMark m s))

/-- The effects of a MARK entry in process (R68). -/
def markCompletion (s : State) : State :=
  match s.intake.inProcess with
  | some (.mark m) => completeMark m (finishEntry s)
  | _ => s

/-- MARK_ENTRY_COMPLETE (R67, R68). -/
def execMarkEntryComplete (s : State) : Host.Outcome State Fault Refusal := blockStep markCompletion s

/-- The effects of a GAP entry: the span, W, the sweep, and the promotion test (R69, R109). -/
def completeGap (first last : Nat) (cause : GapCause) (s : State) : State :=
  promotionTest (sweep (advanceToGap last (addSpan (min first s.map.w) last cause.span s)))

/-- The effects of a GAP entry in process (R69). -/
def gapCompletion (s : State) : State :=
  match s.intake.inProcess with
  | some (.gap first last cause) => completeGap first last cause (finishEntry s)
  | _ => s

/-- GAP_ENTRY_COMPLETE (R67, R69). -/
def execGapEntryComplete (s : State) : Host.Outcome State Fault Refusal := blockStep gapCompletion s

end Sys2Proof.Machine
end

