-- ==== Sys2Proof/Machine/ConfCommands.lean ====
section
/-!
DEFINITION. CONF (R26): each item's words, its own checks, and its write.
-/

namespace Sys2Proof.Machine

/-- The configuration items (the table of R26). -/
inductive ConfItem
  | encoderScale
  | dCut
  | dCommit
  | tLate
  | clockSelect
  | staleDistance
  | ku
  | kd
  | joinTol
  | gapTol
  | netZone
  | cmin
  | cmax
  | cullMargin
  | ls
  | q
  | tDev
  | lane (i : Fin 12)
  | dest (i : Fin 8)
  deriving DecidableEq, Repr

/-- The data words an item takes (R26). -/
def ConfItem.fixed : ConfItem → Nat
  | .dCut | .netZone | .lane _ => 2
  | _ => 1

/-- The modes that accept an item's write (R25). -/
def ConfItem.accepts : ConfItem → Mode → Bool
  | .dest _ => anyMode
  | _ => onlySetup

/-- The item's words as now stored, in the words of its write (R26). -/
def ConfItem.words (c : Conf) : ConfItem → List Word
  | .encoderScale => [word c.encoderScale]
  | .dCut => words32 c.dCut
  | .dCommit => [word c.dCommit]
  | .tLate => [word c.tLate]
  | .clockSelect => [word c.clockSelect]
  | .staleDistance => [word c.staleDistance]
  | .ku => [word c.ku]
  | .kd => [word c.kd]
  | .joinTol => [word c.joinTol]
  | .gapTol => [word c.gapTol]
  | .netZone => [word c.netZone.xl, word c.netZone.xr]
  | .cmin => [word c.cmin]
  | .cmax => [word c.cmax]
  | .cullMargin => [word c.cullMargin]
  | .ls => [word c.ls]
  | .q => [word c.q]
  | .tDev => [word c.tDev]
  | .lane i => [word c.lanes[i].xl, word c.lanes[i].xr]
  | .dest i => [word c.dest[i]]

/-- A value lies in a range, ends included. -/
def inRange (low high n : Nat) : Bool := low ≤ n && n ≤ high

/-- No order's Lp or short length lies below a Cmin (R114). -/
def ordersAllow (cmin : Nat) (orders : List Order) : Bool :=
  orders.all fun o => cmin ≤ o.lp && (o.short.all fun n => cmin ≤ n)

/-- A write of Cmin is in range, and leaves no length that depends on it below it (R114). -/
def cminAllowed (n : Nat) (s : State) : Bool :=
  inRange 100 2000 n && n ≤ s.conf.cmax && n ≤ s.conf.ls && s.conf.tLate ≤ n && ordersAllow n s.production.orders

/-- An extent whose ends are 0..8191 (R50, R58). -/
def extentAllowed (a : Across) : Bool := a.xl ≤ 8191 && a.xr ≤ 8191

/-- The extent of two data words. -/
def extentOf (ws : List Word) : Across := ⟨valueAt ws 0, valueAt ws 1⟩

/-- The item's own check of its value (the rule the table of R26 names). -/
def ConfItem.allowed (ws : List Word) (s : State) : ConfItem → Bool
  | .encoderScale => inRange 1 65535 (valueAt ws 0)
  | .dCut => inRange 5000 120000 (value32At ws 0)
  | .dCommit => inRange 500 20000 (valueAt ws 0)
  | .tLate => valueAt ws 0 ≤ s.conf.cmin
  | .clockSelect => valueAt ws 0 ≤ 3
  | .staleDistance => valueAt ws 0 ≤ 20000
  | .ku => valueAt ws 0 ≤ 255
  | .kd => valueAt ws 0 ≤ 255
  | .joinTol => valueAt ws 0 ≤ 31
  | .gapTol => valueAt ws 0 ≤ 63
  | .netZone => extentAllowed (extentOf ws)
  | .cmin => cminAllowed (valueAt ws 0) s
  | .cmax => inRange s.conf.cmin 6000 (valueAt ws 0)
  | .cullMargin => valueAt ws 0 ≤ 100
  | .ls => inRange s.conf.cmin 2000 (valueAt ws 0)
  | .q => inRange 4 16 (valueAt ws 0)
  | .tDev => valueAt ws 0 ≤ 200
  | .lane _ => extentAllowed (extentOf ws)
  | .dest _ => valueAt ws 0 ≤ 15

/-- The configuration with the item written. -/
def ConfItem.store (ws : List Word) (c : Conf) : ConfItem → Conf
  | .encoderScale => { c with encoderScale := valueAt ws 0 }
  | .dCut => { c with dCut := value32At ws 0 }
  | .dCommit => { c with dCommit := valueAt ws 0 }
  | .tLate => { c with tLate := valueAt ws 0 }
  | .clockSelect => { c with clockSelect := valueAt ws 0 }
  | .staleDistance => { c with staleDistance := valueAt ws 0 }
  | .ku => { c with ku := valueAt ws 0 }
  | .kd => { c with kd := valueAt ws 0 }
  | .joinTol => { c with joinTol := valueAt ws 0 }
  | .gapTol => { c with gapTol := valueAt ws 0 }
  | .netZone => { c with netZone := extentOf ws }
  | .cmin => { c with cmin := valueAt ws 0 }
  | .cmax => { c with cmax := valueAt ws 0 }
  | .cullMargin => { c with cullMargin := valueAt ws 0 }
  | .ls => { c with ls := valueAt ws 0 }
  | .q => { c with q := valueAt ws 0 }
  | .tDev => { c with tDev := valueAt ws 0 }
  | .lane i => { c with lanes := c.lanes.set i (extentOf ws) }
  | .dest i => { c with dest := c.dest.set i (valueAt ws 0) }

/-- The lane references after a write: a changed extent restarts the settling of its lane's references (R50). -/
def ConfItem.refs (ws : List Word) (s : State) : ConfItem → RefTable
  | .lane i => if s.conf.lanes[i] = extentOf ws then s.refs else s.refs.restart i
  | _ => s.refs

/-- The part with the item written (R26). -/
def ConfItem.write (ws : List Word) (item : ConfItem) (s : State) : State :=
  { s with conf := item.store ws s.conf, refs := item.refs ws s }

/-- A CONF of an item, after the checks of R18 (R26). -/
def confAct (item : ConfItem) (ws : List Word) (s : State) : State × Reply :=
  if item.allowed ws s then (item.write ws s, Reply.done (item.words (item.store ws s.conf)))
  else (s, Reply.refused .range)

/-- The transfer of a CONF of an item (R26). -/
def confCommand (item : ConfItem) (l : Link) (b : Body) (s : State) : Host.Outcome State Fault Refusal :=
  command (supervisorEntry 0x31 item.accepts item.fixed) l b (confAct item b.data) s

/-- The lane or destination item an argument names (R26). -/
def listedItem (arg : Byte) : Option ConfItem :=
  if h : 0x20 ≤ arg.toNat ∧ arg.toNat ≤ 0x2B then some (.lane ⟨arg.toNat - 0x20, by omega⟩)
  else if h : 0x30 ≤ arg.toNat ∧ arg.toNat ≤ 0x37 then some (.dest ⟨arg.toNat - 0x30, by omega⟩)
  else none

/-- A CONF of the item an argument names. An argument that names no item is refused, RANGE, in every mode, before the mode
check (R26). -/
def confListed (arg : Byte) (l : Link) (b : Body) (s : State) : Host.Outcome State Fault Refusal :=
  match listedItem arg with
  | some item => confCommand item l b s
  | none => command (supervisorEntry 0x31 anyMode 0) l b (answer fun _ => Reply.refused .range) s

/-- CONF, item 00h (R5). -/
def execConfEncoderScale (l : Link) (b : Body) (s : State) : Host.Outcome State Fault Refusal := confCommand .encoderScale l b s

/-- CONF, item 01h (R6). -/
def execConfDCut (l : Link) (b : Body) (s : State) : Host.Outcome State Fault Refusal := confCommand .dCut l b s

/-- CONF, item 02h (R6). -/
def execConfDCommit (l : Link) (b : Body) (s : State) : Host.Outcome State Fault Refusal := confCommand .dCommit l b s

/-- CONF, item 03h (R6). -/
def execConfTLate (l : Link) (b : Body) (s : State) : Host.Outcome State Fault Refusal := confCommand .tLate l b s

/-- CONF, item 04h (R11). The divider's fresh tick is not seen, since the model counts whole ticks (log 9). -/
def execConfClockSelect (l : Link) (b : Body) (s : State) : Host.Outcome State Fault Refusal := confCommand .clockSelect l b s

/-- CONF, item 05h (R31). -/
def execConfStaleDistance (l : Link) (b : Body) (s : State) : Host.Outcome State Fault Refusal := confCommand .staleDistance l b s

/-- CONF, item 06h (R51). -/
def execConfKu (l : Link) (b : Body) (s : State) : Host.Outcome State Fault Refusal := confCommand .ku l b s

/-- CONF, item 07h (R51). -/
def execConfKd (l : Link) (b : Body) (s : State) : Host.Outcome State Fault Refusal := confCommand .kd l b s

/-- CONF, item 08h, J (R57). -/
def execConfJ (l : Link) (b : Body) (s : State) : Host.Outcome State Fault Refusal := confCommand .joinTol l b s

/-- CONF, item 09h, G (R57). -/
def execConfG (l : Link) (b : Body) (s : State) : Host.Outcome State Fault Refusal := confCommand .gapTol l b s

/-- CONF, item 0Ah (R58). -/
def execConfNetZone (l : Link) (b : Body) (s : State) : Host.Outcome State Fault Refusal := confCommand .netZone l b s

/-- CONF, item 0Bh (R114). -/
def execConfCmin (l : Link) (b : Body) (s : State) : Host.Outcome State Fault Refusal := confCommand .cmin l b s

/-- CONF, item 0Ch (R114). -/
def execConfCmax (l : Link) (b : Body) (s : State) : Host.Outcome State Fault Refusal := confCommand .cmax l b s

/-- CONF, item 0Dh (R114). -/
def execConfCullMargin (l : Link) (b : Body) (s : State) : Host.Outcome State Fault Refusal := confCommand .cullMargin l b s

/-- CONF, item 0Eh (R114). -/
def execConfLs (l : Link) (b : Body) (s : State) : Host.Outcome State Fault Refusal := confCommand .ls l b s

/-- CONF, item 0Fh (R115). -/
def execConfQ (l : Link) (b : Body) (s : State) : Host.Outcome State Fault Refusal := confCommand .q l b s

/-- CONF, item 10h (R142). -/
def execConfTDev (l : Link) (b : Body) (s : State) : Host.Outcome State Fault Refusal := confCommand .tDev l b s

/-- CONF, items 20h..2Bh: the extent of a lane (R50). -/
def execConfLaneExtent (l : Link) (arg : Byte) (b : Body) (s : State) : Host.Outcome State Fault Refusal :=
  confListed arg l b s

/-- CONF, items 30h..37h: a destination code, or an argument that names no item (R26, R162; log 13). -/
def execConfDestination (l : Link) (arg : Byte) (b : Body) (s : State) : Host.Outcome State Fault Refusal :=
  confListed arg l b s

end Sys2Proof.Machine
end

