-- ==== Sys2Proof/Machine/CutterCommands.lean ====
section
/-!
DEFINITION. The dispatcher's step EXPIRY and the cutter link's commands TAKE, DONE, ROUTE and CSTAT (chapter 8).
-/

namespace Sys2Proof.Machine

/-! ## EXPIRY (R146) -/

/-- The oldest raised expiry reaches the dispatcher: the head expires when it is the cut named, and otherwise the event is
ignored (R146). -/
def receiveExpiry (s : State) : State :=
  match s.travel.expiryRaised with
  | seq :: later =>
    let s' := { s with travel := { s.travel with expiryRaised := later } }
    match s'.dispatcher.cuts with
    | c :: rest => if c.seq = seq then expireHead c rest s' else s'
    | [] => s'
  | [] => s

/-- EXPIRY (R9, R146). -/
def execExpiry (s : State) : Host.Outcome State Fault Refusal := blockStep receiveExpiry s

/-! ## TAKE (R140) -/

/-- Step 1 of TAKE: a QUEUED head whose arrival has passed expires, again and again (R140). Each expiry is an event of the
dispatcher's own, and a held commit it frees a slot for is made with it (R122, R145). An expiry shortens the queue by one,
and a held commit lengthens it once at most, so `fuel` of the queue's length and two more is enough. -/
def expirePassed : Nat → State → State
  | 0, s => s
  | fuel + 1, s =>
    match s.dispatcher.cuts with
    | c :: rest =>
      if c.state = .queued ∧ c.target + s.conf.dCut < s.travel.p then
        expirePassed fuel (settleHeld (asEvent (expireHead c rest) s))
      else s
    | [] => s

/-- The oldest QUEUED cut. -/
def Dispatcher.oldestQueued (d : Dispatcher) : Option Cut := d.cuts.find? fun c => c.state == .queued

/-- The oldest QUEUED cut becomes ISSUED (R140). -/
def Dispatcher.issue (d : Dispatcher) : Dispatcher :=
  { d with cuts := updateFirst (fun c => c.state == .queued) (fun c => { c with state := .issued }) d.cuts }

/-- Steps 2 to 4 of TAKE (R140). -/
def issueCut (s : State) : State × Reply :=
  match s.dispatcher.oldestQueued with
  | none => (s, Reply.refused .empty)
  | some c =>
    if Config.issuedMax ≤ s.dispatcher.issuedCount then (s, Reply.refused .busy)
    else ({ s with dispatcher := s.dispatcher.issue }, Reply.done (cutRecord s.conf.dCut c))

/-- TAKE's steps (R140). -/
def takeCut (s : State) : State × Reply := issueCut (expirePassed (s.dispatcher.cuts.length + 2) s)

/-- TAKE (R140). -/
def execTake (l : Link) (_arg : Byte) (b : Body) (s : State) : Host.Outcome State Fault Refusal :=
  command (cutterEntry 0x20 0) l b takeCut s

/-! ## DONE (R141 to R144) -/

/-- The close queue holds 4 pieces (R153). -/
def Grader.full (g : Grader) : Bool := Config.closeCapacity ≤ g.queue.length

/-- The three words of a DONE's response (R141). -/
def doneWords (a kind : Nat) : List Word := words32 a ++ [word kind]

/-- DONE with outcome OK on the head (R143). -/
def doneHeadOk (c : Cut) (rest : List Cut) (dev : Int) (s : State) : State × Reply :=
  let a := actualPosition s.conf.tDev c.target dev
  let ws := doneWords a (formPiece s.dispatcher c a).kind.code
  (executeHead c rest a s, if positionAdjusted s.conf.tDev c.target dev then Reply.adjusted .clamped ws else Reply.done ws)

/-- The outcome a DONE reports. -/
inductive CutOutcome
  | ok (dev : Int)
  | missed
  deriving DecidableEq, Repr

/-- The outcome a DONE's argument and data words give; none when the argument is neither 0 nor 1 (R141). -/
def outcomeOf (arg : Byte) (ws : List Word) : Option CutOutcome :=
  if arg = 0 then some (.ok (signedWord (ws.getD 1 0))) else if arg = 1 then some .missed else none

/-- A DONE that names the cut at the head of the queue, ISSUED (R141). -/
def doneHead (c : Cut) (rest : List Cut) (o : CutOutcome) (s : State) : State × Reply :=
  if s.grader.full then (s, Reply.refused .busy)
  else
    match o with
    | .ok dev => doneHeadOk c rest dev s
    | .missed => (missHead c rest s, Reply.done (doneWords 0 0))

/-- The checks of DONE after its argument: the cut is in the queue, and it is the ISSUED head (R141). -/
def doneSeq (seq : Nat) (o : CutOutcome) (s : State) : State × Reply :=
  match s.dispatcher.cuts with
  | c :: rest =>
    if c.seq = seq then if c.state = .issued then doneHead c rest o s else (s, Reply.refused .seq)
    else if rest.any fun x => x.seq == seq then (s, Reply.refused .seq)
    else (s, Reply.refused .gone)
  | [] => (s, Reply.refused .gone)

/-- DONE with its argument and data words (R141). -/
def doneCut (arg : Byte) (ws : List Word) (s : State) : State × Reply :=
  match outcomeOf arg ws with
  | some o => doneSeq (valueAt ws 0) o s
  | none => (s, Reply.refused .range)

/-- The transfer of a DONE with any argument; both data words are fixed (R141). -/
def doneCommand (arg : Byte) (l : Link) (b : Body) (s : State) : Host.Outcome State Fault Refusal :=
  command (cutterEntry 0x21 2) l b (doneCut arg b.data) s

/-- DONE with outcome OK, or with an argument that is refused (R141, R143; log 13). -/
def execDoneOk (l : Link) (arg : Byte) (b : Body) (s : State) : Host.Outcome State Fault Refusal := doneCommand arg l b s

/-- DONE with outcome MISSED (R141, R144). -/
def execDoneMissed (l : Link) (b : Body) (s : State) : Host.Outcome State Fault Refusal := doneCommand 1 l b s

/-! ## ROUTE (R149) -/

/-- ROUTE with its argument (R149). -/
def readRoutes (n : Nat) (s : State) : State × Reply :=
  let entries := s.dispatcher.routing
  if n = 0 ∨ 8 < n then (s, Reply.refused .range)
  else if entries.isEmpty then (s, Reply.refused .empty)
  else
    ({ s with dispatcher := { s.dispatcher with routing := entries.drop n } },
      Reply.done (word (min n entries.length) :: (entries.take n).flatMap routeWords))

/-- ROUTE (R149). -/
def execRoute (l : Link) (arg : Byte) (b : Body) (s : State) : Host.Outcome State Fault Refusal :=
  command (cutterEntry 0x22 0) l b (readRoutes arg.toNat) s

/-! ## CSTAT (R150) -/

/-- The seq of the head entry, 0 when the queue is empty (R150). -/
def Dispatcher.headSeq (d : Dispatcher) : Nat :=
  match d.cuts with
  | c :: _ => c.seq
  | [] => 0

/-- The folded rows of the merged-piece record (R150). When it is absent R150 states no value, and 0 is the model's choice
(log 29). -/
def Dispatcher.foldedRows (d : Dispatcher) : Nat :=
  match d.merged with
  | some m => m.count
  | none => 0

/-- The thirteen words of CSTAT (R150). -/
def cstatWords (d : Dispatcher) : List Word :=
  [word d.cuts.length, word d.issuedCount, word d.queuedCount, word d.headSeq] ++ words32 (d.aLast.getD 0) ++
    [flagWord d.aLast.isSome, flagWord d.merged.isSome, word d.foldedRows, word d.routing.length, word d.missed,
      word d.expired, word d.routeLost]

/-- CSTAT (R150). -/
def execCstat (l : Link) (_arg : Byte) (b : Body) (s : State) : Host.Outcome State Fault Refusal :=
  command (cutterEntry 0x23 0) l b (answer fun s => Reply.done (cstatWords s.dispatcher)) s

end Sys2Proof.Machine
end

