-- ==== Sys2Proof/Machine/GantryCommands.lean ====
section
/-!
DEFINITION. The gantry link's commands DET, BKG, MARK, GAP and GSTAT (chapter 3).
-/

namespace Sys2Proof.Machine

/-! ## The intake queue (R36, R47) -/

/-- The intake queue holds 64 entries. -/
def Intake.full (q : Intake) : Bool := Config.intakeCapacity ≤ q.queue.length

/-- An entry is added at the tail, and the high-water mark raised to the depth (R36, R47). -/
def Intake.push (e : Entry) (q : Intake) : Intake :=
  { q with queue := q.queue ++ [e], highWater := max q.highWater (q.queue.length + 1) }

/-- A record or a command is counted as received (R47). -/
def Intake.receive (q : Intake) : Intake := { q with received := wrapSucc q.received }

/-- A record is counted as dropped, and handed to the shift accounts as an intake drop (R47, R170). -/
def countDrop (s : State) : State :=
  { s with intake := { s.intake with dropped := bump s.intake.dropped } }.count
    fun c => { c with intakeDrops := bump c.intakeDrops }

/-- A record is dropped for a full queue: OVERFLOW and the overflow-since-read flag (R42, R43). -/
def dropForFull (s : State) : State :=
  let s' := countDrop s
  raise .overflow { s' with intake := { s'.intake with overflow := true } }

/-- The records of one DET or BKG as they are taken: the part, the number entered, whether an entered record was clamped,
and whether a record was malformed or dropped. -/
structure Taking where
  s : State
  entered : Nat
  clamped : Bool
  lost : Bool

/-- A record is entered into the queue. -/
def Taking.enter (e : Entry) (clamped : Bool) (t : Taking) : Taking :=
  ⟨{ t.s with intake := t.s.intake.receive.push e }, t.entered + 1, t.clamped || clamped, t.lost⟩

/-- A malformed record is discarded, counted as received and dropped (R40, R43). -/
def Taking.discard (t : Taking) : Taking :=
  { t with s := countDrop { t.s with intake := t.s.intake.receive }, lost := true }

/-- A record is dropped for a full queue, counted as received and dropped (R42, R43). -/
def Taking.drop (t : Taking) : Taking :=
  { t with s := dropForFull { t.s with intake := t.s.intake.receive }, lost := true }

/-- What DET and BKG reply (R39, R43): the number of records entered, PARTIAL when a record was malformed or dropped or
fewer than n came, and CLAMPED when one was clamped. -/
def Taking.reply (complete : Bool) (t : Taking) : Reply :=
  if t.lost || !complete then Reply.adjusted .partly [word t.entered]
  else if t.clamped then Reply.adjusted .clamped [word t.entered]
  else Reply.done [word t.entered]

/-! ## DET (R39 to R42) -/

/-- The lane of a well-formed detection record: one that exists, with x_start inside its extent (R40). -/
def wellFormedLane (lanes : Vector Across 12) (r : RawDetection) : Option (Fin 12) :=
  match laneOf r.lane with
  | some lane => if lanes[lane].xl ≤ r.xStart ∧ r.xStart < lanes[lane].xr then some lane else none
  | none => none

/-- The detection a well-formed record enters, with its row clamped to P (R36, R41). -/
def RawDetection.entry (p : Nat) (lane : Fin 12) (r : RawDetection) : Detection where
  row := min r.row p
  xStart := r.xStart
  width := r.width
  band := r.band
  lane := lane
  channel := r.channel
  kind := r.kind
  peak := r.peak

/-- A detection record is examined and entered, discarded or dropped (R39 to R42). -/
def takeDetection (t : Taking) (r : RawDetection) : Taking :=
  match wellFormedLane t.s.conf.lanes r with
  | none => t.discard
  | some lane =>
    let d := r.entry t.s.travel.p lane
    if t.s.intake.full then
      let dropped := t.drop
      { dropped with s := addSpan d.row d.lastRow .intake dropped.s }
    else t.enter (.detection d) (decide (t.s.travel.p < r.row))

/-- DET with its argument and records (R39). -/
def det (n : Nat) (ws : List Word) (s : State) : State × Reply :=
  if n = 0 ∨ 12 < n then (s, Reply.refused .range)
  else
    let records := detectionRecords n ws
    let t := records.foldl takeDetection ⟨s, 0, false, false⟩
    (t.s, t.reply (records.length == n))

/-- DET (R39). -/
def execDet (l : Link) (arg : Byte) (b : Body) (s : State) : Host.Outcome State Fault Refusal :=
  command (gantryEntry 0x10 notSetup 5) l b (det arg.toNat b.data) s

/-! ## BKG (R43) -/

/-- A background sample is entered, discarded or dropped (R43). -/
def takeSample (t : Taking) (r : RawSample) : Taking :=
  match laneOf r.lane with
  | none => t.discard
  | some lane => if t.s.intake.full then t.drop else t.enter (.background lane r.channel r.level) false

/-- BKG with its argument and samples (R43). -/
def bkg (n : Nat) (ws : List Word) (s : State) : State × Reply :=
  if n = 0 ∨ 16 < n then (s, Reply.refused .range)
  else
    let records := sampleRecords n ws
    let t := records.foldl takeSample ⟨s, 0, false, false⟩
    (t.s, t.reply (records.length == n))

/-- BKG (R43). -/
def execBkg (l : Link) (arg : Byte) (b : Body) (s : State) : Host.Outcome State Fault Refusal :=
  command (gantryEntry 0x11 notSetup 2) l b (bkg arg.toNat b.data) s

/-! ## MARK and GAP (R44, R45) -/

/-- An accepted MARK or GAP joins the queue and counts as received (R44, R45). -/
def acceptEntry (e : Entry) (s : State) : State := { s with intake := s.intake.receive.push e }

/-- What an accepted MARK at `p` replies (R44). -/
def markReply (s : State) (p : Nat) : Reply :=
  if min p s.travel.p ≤ s.map.w then Reply.adjusted .held []
  else if s.travel.p < p then Reply.adjusted .clamped []
  else Reply.done []

/-- MARK with its position (R44). -/
def markAt (p : Nat) (s : State) : State × Reply :=
  if s.intake.full then (s, Reply.refused .full)
  else (acceptEntry (.mark (min p s.travel.p)) s, markReply s p)

/-- MARK (R44). -/
def execMark (l : Link) (_arg : Byte) (b : Body) (s : State) : Host.Outcome State Fault Refusal :=
  command (gantryEntry 0x12 notSetup 2) l b (markAt (value32At b.data 0)) s

/-- GAP with its cause and ends (R45). -/
def gapOver (cause first last : Nat) (s : State) : State × Reply :=
  match GapCause.ofCode cause with
  | none => (s, Reply.refused .range)
  | some c =>
    if last < first then (s, Reply.refused .range)
    else if s.intake.full then (s, Reply.refused .full)
    else
      (acceptEntry (.gap first last c) s,
        if min last s.travel.p ≤ s.map.w then Reply.adjusted .held [] else Reply.done [])

/-- GAP (R45). -/
def execGap (l : Link) (arg : Byte) (b : Body) (s : State) : Host.Outcome State Fault Refusal :=
  command (gantryEntry 0x13 notSetup 4) l b (gapOver arg.toNat (value32At b.data 0) (value32At b.data 2)) s

/-! ## GSTAT (R48) -/

/-- The nine words of GSTAT (R48). -/
def gstatWords (s : State) : List Word :=
  [word s.intake.queue.length, word (entryCode s.intake.inProcess), word s.intake.highWater, word s.intake.received,
    word s.intake.dropped, flagWord s.intake.overflow] ++ words32 s.map.w ++ [word s.refs.settledCount]

/-- GSTAT clears the overflow-since-read flag and sets the high-water mark to the depth (R48). -/
def Intake.afterRead (q : Intake) : Intake := { q with overflow := false, highWater := q.queue.length }

/-- GSTAT (R48). -/
def execGstat (l : Link) (_arg : Byte) (b : Body) (s : State) : Host.Outcome State Fault Refusal :=
  command (gantryEntry 0x14 anyMode 0) l b
    (fun s => ({ s with intake := s.intake.afterRead }, Reply.done (gstatWords s))) s

end Sys2Proof.Machine
end

