-- ==== Sys2Proof/Machine/GraderOps.lean ====
section
/-!
DEFINITION. The grader: the copy made when a piece is taken, cull pieces, and the plates of a piece with their flaws,
points, grades, destinations, accounting and log entries (chapter 9).
-/

namespace Sys2Proof.Machine

/-! ## Taking a piece (R153) -/

/-- The piece with the copy made at its taking (R153). -/
def closingOf (p : Piece) (s : State) : Closing :=
  match p.row.bind s.planner.row with
  | some r =>
    { piece := p
      order := r.order
      k := r.k
      orderPlates := r.orderPlates
      unverified := r.unverified
      forced := r.forced
      columns := match r.pattern with
        | some i => s.production.patterns[i]
        | none => []
      netZone := s.conf.netZone
      cleared := false }
  | none =>
    { piece := p
      order := none
      k := 0
      orderPlates := 0
      unverified := false
      forced := false
      columns := []
      netZone := s.conf.netZone
      cleared := false }

/-- A piece's length: 0 without a start, or with an end at or below it (R147). -/
def Piece.length (p : Piece) : Nat :=
  match p.start with
  | some a => p.stop - a
  | none => 0

/-- The row of the piece leaves the row table; after a line clear it has left already (R118, R155). -/
def removeClosedRow (c : Closing) (s : State) : State :=
  match c.piece.row with
  | some id => if c.cleared then s else removeRowOf id s
  | none => s

/-- The piece is released to the map (R90). -/
def releasePiece (c : Closing) (s : State) : State := { s with map := s.map.release c.piece.stop }

/-- The piece is counted in the total cut area (R172). -/
def countPiece (c : Closing) (s : State) : State :=
  { s with accounts := s.accounts.addTotalArea (c.piece.length * c.netZone.width) }

/-- The grader has no piece in process until it takes the next (R153). That the taking is a step of its own, before which
another step can come, is the model's choice (log 28). -/
def finishClose (s : State) : State := { s with grader := { s.grader with closing := none } }

/-! ## Pieces that are not plates (R156) -/

/-- The close of a CULL, HEAD or MERGED piece (R156). -/
def closeCull (c : Closing) (s : State) : State :=
  let routed := appendRoute ⟨c.piece.seq, c.piece.kind, 0, s.conf.dest[DestItem.cullet.slot], none, 0⟩ s
  let counted := countPiece c (routed.count (Counts.addCull c.piece.length))
  finishClose (releasePiece c (removeClosedRow c counted))

/-! ## The flaws of a plate (R158 to R160) -/

/-- The roles of a plate (R157). -/
inductive Role
  | order
  | surplus
  | short
  | sample
  deriving DecidableEq, Repr

/-- A plate to be judged: its column, its role and its extents. -/
structure Blank where
  column : Nat
  role : Role
  start : Nat
  stop : Nat
  across : Across
  deriving DecidableEq, Repr

/-- The records of the map that meet a plate (R158). -/
def flawsOf (b : Blank) (flaws : List FlawRecord) : List FlawRecord :=
  flaws.filter fun f => alongMeets f.firstRow f.lastRow b.start b.stop && acrossMeets f.xMin f.xMax b.across

/-- The distance of a flaw's nearest point from an edge of the plate (R159). -/
def edgeDistance (b : Blank) (f : FlawRecord) : Nat :=
  min (min (f.firstRow - b.start) (b.stop - 1 - f.lastRow)) (min (f.xMin - b.across.xl) (b.across.xr - 1 - f.xMax))

/-- The points a flaw adds to a plate (R159). -/
def platePoints (g : Limits) (b : Blank) (f : FlawRecord) : Nat :=
  if edgeDistance b f < g.edge then f.points * g.fe / 16 else f.points

/-- A plate's count of one class, saturating (R158). -/
def classCount (c : FlawClass) (flaws : List FlawRecord) : Nat := min 65535 (flaws.countP fun f => f.cls == c)

/-- The points sum of a plate (R160). -/
def pointsSum (g : Limits) (b : Blank) (flaws : List FlawRecord) : Nat :=
  min 65535 ((flaws.map (platePoints g b)).sum)

/-- The area of a plate in mm² (R160). -/
def Blank.area (b : Blank) : Nat := (b.stop - b.start) * b.across.width

/-- The density of a plate in points per m² (R160). -/
def density (sum area : Nat) : Nat := min 65535 (sum * 1000000 / area)

/-! ## Grade and destination (R161 to R163) -/

/-- The grade of a plate (R161). -/
def gradeOf (g : Limits) (critical major dens : Nat) (unverified : Bool) : Grade :=
  if 0 < critical then .x
  else if major = 0 ∧ dens ≤ g.da ∧ !unverified then .a
  else if major ≤ g.nb ∧ dens ≤ g.db then .b
  else .c

/-- A plate's grade meets a required grade: that grade or better (R161). -/
def Grade.meets (g required : Grade) : Bool := g.code ≤ required.code && g != .x

/-- The surplus destination of a grade (R163). -/
def surplusItem : Grade → DestItem
  | .a => .surplusA
  | .b => .surplusB
  | _ => .surplusC

/-- The downgrade destination of a grade (R163). -/
def downgradeItem : Grade → DestItem
  | .b => .downgradeB
  | _ => .downgradeC

/-- Where a plate goes, and its destination class (the table of R163). `order` is the order the row names, for an order
plate; a plate whose order cannot be found is surplus (log 17). -/
def destinationOf (dest : Vector Nat 8) (role : Role) (g : Grade) (order : Option Order) : Nat × DestClass :=
  match role with
  | .sample => (dest[DestItem.sample.slot], .sample)
  | .short => if g = .x then (dest[DestItem.cullet.slot], .cullet) else (dest[DestItem.short.slot], .short)
  | .surplus => if g = .x then (dest[DestItem.cullet.slot], .cullet) else (dest[(surplusItem g).slot], .surplus)
  | .order =>
    if g = .x then (dest[DestItem.cullet.slot], .cullet)
    else
      match order with
      | some o => if g.meets o.grade then (o.stacker, .order) else (dest[(downgradeItem g).slot], .downgrade)
      | none => (dest[(surplusItem g).slot], .surplus)

/-! ## The plates of a piece (R157, R164 to R167) -/

/-- The role of a PRODUCT plate's column; after a line clear every plate is surplus (R128, R155, R157). -/
def Closing.roleAt (c : Closing) (column : Nat) : Role :=
  match c.piece.kind with
  | .short => .short
  | .sample => .sample
  | _ => if !c.cleared && column < c.orderPlates then .order else .surplus

/-- The plates a piece is divided into (R157). -/
def Closing.blanks (c : Closing) : List Blank :=
  let across := match c.piece.kind with
    | .sample => [c.netZone]
    | _ => c.columns
  across.zipIdx.map fun x => ⟨x.2, c.roleAt x.2, c.piece.start.getD 0, c.piece.stop, x.1⟩

/-- A flaw of the plate as its flaw list names it (R167). -/
def listedFlaw (g : Limits) (b : Blank) (f : FlawRecord) : ListedFlaw where
  number := f.number
  kind := f.kind
  cls := f.cls
  points := platePoints g b f
  along := f.firstRow - b.start
  cross := f.xMin - b.across.xl

/-- The order of the flaw list: most points first, and the smaller number among equals (R167). -/
def ListedFlaw.precedes (a b : ListedFlaw) : Bool :=
  b.points < a.points || (a.points == b.points && a.number < b.number)

/-- The accounting step of an order plate (R164): the order, and whether it becomes FILLED (R97). -/
def Order.step (delivers : Bool) (o : Order) : Order :=
  let delivered := if delivers then o.delivered + 1 else o.delivered
  { o with
    inFlight := o.inFlight - 1
    delivered := delivered
    state := if delivers && o.state == .opened && delivered == o.wanted then .filled else o.state }

/-- The order plate's accounting step, and FILLED when the order fills at it (R97, R164). -/
def accountPlate (id : Nat) (delivers : Bool) (s : State) : State :=
  match s.production.order id with
  | some o =>
    let s' := { s with production := s.production.updateOrder id (Order.step delivers) }
    if o.state = .opened ∧ (o.step delivers).state = .filled then raise .filled s' else s'
  | none => s

/-- The plate log entry of a plate (R167). -/
def plateEntry (c : Closing) (b : Blank) (s : State) : PlateEntry × DestClass :=
  let limits := s.recipes.current.limits
  let flaws := flawsOf b s.map.flaws
  let listed := sortOrdered ListedFlaw.precedes (flaws.map (listedFlaw limits b))
  let sum := pointsSum limits b flaws
  let dens := density sum b.area
  let grade := gradeOf limits (classCount .critical flaws) (classCount .major flaws) dens c.unverified
  let dest := destinationOf s.conf.dest b.role grade (c.order.bind s.production.order)
  ({ id := s.grader.nextPlate
     row := c.piece.row.getD 0
     order := c.order
     column := b.column
     kind := c.piece.kind
     start := b.start
     stop := b.stop
     width := b.across.width
     grade := grade
     dest := dest.1
     unverified := c.unverified
     forced := c.forced
     surplus := b.role == .surplus
     short := b.role == .short
     sample := b.role == .sample
     faint := classCount .faint flaws
     minor := classCount .minor flaws
     major := classCount .major flaws
     critical := classCount .critical flaws
     sum := sum
     density := dens
     shift := s.accounts.shift
     flaws := listed.take Config.flawListMax
     more := min 65535 (flaws.length - Config.flawListMax) }, dest.2)

/-- The next plate id, with the wrapped mark (R165). -/
def takePlateId (g : Grader) : Grader :=
  { g with nextPlate := wrapSuccOne g.nextPlate, wrapped := g.wrapped || g.nextPlate == 65535 }

/-- A plate as its close finds it. -/
structure Plate where
  entry : PlateEntry
  cls : DestClass
  deriving DecidableEq, Repr

/-- Step 1 of R166 for one plate: it is judged, takes its id, and an order plate makes its accounting step. -/
def formPlate (c : Closing) (acc : State × List Plate) (b : Blank) : State × List Plate :=
  let s := acc.1
  let e := plateEntry c b s
  let taken := { s with grader := takePlateId s.grader }
  let stepped := match b.role, c.order with
    | .order, some id => accountPlate id (e.2 == .order) taken
    | _, _ => taken
  (stepped, acc.2 ++ [⟨e.1, e.2⟩])

/-- The routing entry of a plate (R166, step 2). -/
def Plate.route (c : Closing) (p : Plate) : RouteEntry :=
  ⟨c.piece.seq, c.piece.kind, p.entry.column, p.entry.dest, some p.entry.grade, p.entry.id⟩

/-- An entry is written to the plate log; a full log loses its oldest entry (R167). -/
def logPlate (e : PlateEntry) (s : State) : State :=
  let kept := if s.grader.log.length < Config.logCapacity then s.grader.log else s.grader.log.drop 1
  { s with grader := { s.grader with log := kept ++ [e] } }

/-- A plate is handed to the shift accounts (R171, R172). -/
def countPlate (p : Plate) (s : State) : State :=
  let length := p.entry.stop - p.entry.start
  let counted := s.count (Counts.addPlate p.entry.grade p.cls)
  match p.cls with
  | .cullet => counted.count (Counts.addCull length)
  | .order => { counted with accounts := counted.accounts.addProductArea (length * p.entry.width) }
  | .surplus => { counted with accounts := counted.accounts.addProductArea (length * p.entry.width) }
  | _ => counted

/-- The close of a PRODUCT, SHORT or SAMPLE piece, in the order of R166. -/
def closePlates (c : Closing) (s : State) : State :=
  let formed := c.blanks.foldl (formPlate c) (s, [])
  let plates := formed.2
  let routed := plates.foldl (fun s p => appendRoute (p.route c) s) formed.1
  let logged := plates.foldl (fun s p => logPlate p.entry s) routed
  let counted := countPiece c (plates.foldl (fun s p => countPlate p s) logged)
  finishClose (releasePiece c (removeClosedRow c counted))

end Sys2Proof.Machine
end

