-- ==== Sys2Proof/Machine/GraderSteps.lean ====
section
/-!
DEFINITION. The grader's steps PIECE_TAKE, CULL_PIECE_CLOSE and PLATE_PIECE_CLOSE (chapter 9).
-/

namespace Sys2Proof.Machine

/-- The idle grader takes the oldest piece, with the copy of R153. -/
def takePiece (s : State) : State :=
  match s.grader.closing, s.grader.queue with
  | none, p :: rest => { s with grader := { s.grader with queue := rest, closing := some (closingOf p s) } }
  | _, _ => s

/-- PIECE_TAKE (R153). -/
def execPieceTake (s : State) : Host.Outcome State Fault Refusal := blockStep takePiece s

/-- A piece of this kind is divided into plates (R157). -/
def PieceKind.isPlates : PieceKind → Bool
  | .product | .short | .sample => true
  | .cull | .head | .merged => false

/-- The piece in process is closed as glass for the cullet (R156). -/
def cullClosing (s : State) : State :=
  match s.grader.closing with
  | some c => if c.piece.kind.isPlates then s else closeCull c s
  | none => s

/-- CULL_PIECE_CLOSE (R156). -/
def execCullPieceClose (s : State) : Host.Outcome State Fault Refusal := blockStep cullClosing s

/-- The piece in process is closed as plates (R166). -/
def plateClosing (s : State) : State :=
  match s.grader.closing with
  | some c => if c.piece.kind.isPlates then closePlates c s else s
  | none => s

/-- PLATE_PIECE_CLOSE (R157 to R166). -/
def execPlatePieceClose (s : State) : Host.Outcome State Fault Refusal := blockStep plateClosing s

end Sys2Proof.Machine
end

