-- ==== Sys2Proof/Machine/LinkCommands.lean ====
section
/-!
DEFINITION. Transfers without a command (R17, R22), and the commands every link accepts: NOP, EVT, MASK (chapter 2) and POS
(R15).
-/

namespace Sys2Proof.Machine

/-- EMPTY_TRANSFER: no complete word was shifted in, so no command is taken and the pending response stays (R17). No
complete word was shifted out either. -/
def execEmptyTransfer (l : Link) (_tail : Nat) (s : State) : Host.Outcome State Fault Refusal :=
  .next (if s.inReset then shiftZeros l 0 s else shiftOut l 0 (settle s))

/-- UNKNOWN_COMMAND: a code that is not defined is answered UNKNOWN on every link (R22). A term whose code is defined is
no unknown command (log 21). -/
def execUnknownCommand (l : Link) (code _arg : Byte) (b : Body) (s : State) : Host.Outcome State Fault Refusal :=
  if codeDefined code then .refused .codeIsDefined
  else transfer l b (fun s => (s, ⟨statusWord code .unknown .none, []⟩)) s

/-- NOP: n data words, and no change (R21). -/
def execNop (l : Link) (arg : Byte) (b : Body) (s : State) : Host.Outcome State Fault Refusal :=
  command (commonEntry 0x00 arg.toNat) l b (answer fun _ => Reply.done []) s

/-- The event flags of a link as EVT and MASK send them, in bits 7..0. -/
def byteWord (x : BitVec 8) : Word := x.setWidth 16

/-- EVT: the flags of the link are returned and cleared (R30). -/
def execEvt (l : Link) (_arg : Byte) (b : Body) (s : State) : Host.Outcome State Fault Refusal :=
  command (commonEntry 0x01 0) l b (fun s => (clearFlags l s, Reply.done [byteWord (s.link l).flags])) s

/-- What MASK replies: the mask as stored, CLAMPED when a bit was discarded (R29). -/
def maskReply (l : Link) (w : Word) : Reply :=
  if maskDiscards l w then Reply.adjusted .clamped [byteWord (storedMask l w)]
  else Reply.done [byteWord (storedMask l w)]

/-- MASK: the event mask of the link is set (R29). -/
def execMask (l : Link) (_arg : Byte) (b : Body) (s : State) : Host.Outcome State Fault Refusal :=
  command (commonEntry 0x02 1) l b (fun s => (setMask l (b.data.getD 0 0) s, maskReply l (b.data.getD 0 0))) s

/-- The seven words of POS (R15). -/
def posWords (s : State) : List Word :=
  words32 s.travel.p ++ [word s.travel.remainder] ++ words32 s.map.w ++ [word s.mode.code, flagWord s.travel.stopped]

/-- POS: the travel position and the part's state (R15). -/
def execPos (l : Link) (_arg : Byte) (b : Body) (s : State) : Host.Outcome State Fault Refusal :=
  command (commonEntry 0x03 0) l b (answer fun s => Reply.done (posWords s)) s

end Sys2Proof.Machine
end

