-- ==== Sys2Proof/Machine/MapCommands.lean ====
section
/-!
DEFINITION. The reads of the map, the plate log and the ribbon's extent: FLAW (R92), PLATE (R168) and WINDOW (R93).
-/

namespace Sys2Proof.Machine

/-! ## FLAW (R92) -/

/-- The flags word of FLAW (R92). -/
def flawFlags (f : FlawRecord) : Word :=
  flagWord f.forced + 2 * flagWord f.late + 4 * flagWord f.clipped + 8 * flagWord f.unsettled

/-- The sixteen words of FLAW (R92). -/
def flawWords (f : FlawRecord) : List Word :=
  [word f.number] ++ words32 f.firstRow ++ words32 f.lastRow ++
    [word f.xMin, word f.xMax, word f.kind.code, word f.cls.code, word f.contrast, word f.size, word f.points, word f.area,
      word f.generation, channelsWord f.seenT f.seenR, flawFlags f]

/-- The records from the one numbered `n` on; none when no record carries the number. -/
def flawsFrom (n : Nat) (flaws : List FlawRecord) : List FlawRecord := flaws.dropWhile fun f => f.number != n

/-- FLAW by its argument and number (R92). -/
def readFlaw (arg n : Nat) (s : State) : Reply :=
  match arg with
  | 0 =>
    match flawsFrom n s.map.flaws with
    | f :: _ => Reply.done (flawWords f)
    | [] => Reply.refused .notFound
  | 1 =>
    match flawsFrom n s.map.flaws with
    | _ :: f :: _ => Reply.done (flawWords f)
    | [_] => Reply.refused .empty
    | [] => Reply.refused .notFound
  | 2 =>
    match s.map.flaws with
    | f :: _ => Reply.done (flawWords f)
    | [] => Reply.refused .empty
  | _ => Reply.refused .range

/-- FLAW (R92). -/
def execFlaw (l : Link) (arg : Byte) (b : Body) (s : State) : Host.Outcome State Fault Refusal :=
  command (supervisorEntry 0x3C anyMode 1) l b (answer (readFlaw arg.toNat (valueAt b.data 0))) s

/-! ## PLATE (R168) -/

/-- The flags word of PLATE (R168). -/
def plateFlags (e : PlateEntry) : Word :=
  flagWord e.unverified + 2 * flagWord e.forced + 4 * flagWord e.surplus + 8 * flagWord e.short + 16 * flagWord e.sample

/-- The six words of a listed flaw (R168). -/
def listedWords (f : ListedFlaw) : List Word :=
  [word f.number, word f.kind.code, word f.cls.code, word f.points, word f.along, word f.cross]

/-- The 22 words of PLATE and those of the listed flaws (R168). -/
def plateWords (e : PlateEntry) : List Word :=
  [word e.id, word e.row, word (e.order.getD 0), word e.column, word e.kind.code] ++ words32 e.start ++ words32 e.stop ++
    [word e.width, word e.grade.code, word e.dest, plateFlags e, word e.faint, word e.minor, word e.major, word e.critical,
      word e.sum, word e.density, word e.shift, word e.flaws.length, word e.more] ++ e.flaws.flatMap listedWords

/-- The id has been given since the last power-on or pin reset (R168). -/
def Grader.given (g : Grader) (id : Nat) : Bool := id != 0 && (g.wrapped || decide (id < g.nextPlate))

/-- PLATE by its argument and id (R168). -/
def readPlate (arg id : Nat) (s : State) : Reply :=
  match arg with
  | 0 =>
    match s.grader.log.find? fun e => e.id == id with
    | some e => Reply.done (plateWords e)
    | none => if s.grader.given id then Reply.refused .gone else Reply.refused .notFound
  | 1 =>
    match s.grader.log.getLast? with
    | some e => Reply.done (plateWords e)
    | none => Reply.refused .empty
  | _ => Reply.refused .range

/-- PLATE (R168). -/
def execPlate (l : Link) (arg : Byte) (b : Body) (s : State) : Host.Outcome State Fault Refusal :=
  command (supervisorEntry 0x3D anyMode 1) l b (answer (readPlate arg.toNat (valueAt b.data 0))) s

/-! ## WINDOW (R93) -/

/-- The next-deadline words: the armed target, or FFFFh FFFFh (R8). -/
def deadlineWords (s : State) : List Word :=
  match s.travel.deadline with
  | some start =>
    if s.conf.commitPoint start ≤ Config.rcMax then low32 (s.conf.commitPoint start) else [0xFFFF, 0xFFFF]
  | none => [0xFFFF, 0xFFFF]

/-- The five words of a blind span (R93). -/
def spanWords (x : Span) : List Word := words32 x.first ++ words32 x.last ++ [x.causes.setWidth 16]

/-- The words of WINDOW (R93). -/
def windowWords (s : State) : List Word :=
  words32 s.planner.s ++ words32 s.map.w ++ words32 s.travel.p ++ deadlineWords s ++
    [word s.dispatcher.cuts.length, word s.planner.rows.length] ++ words32 s.map.eClosed ++
    [word s.map.flaws.length, word s.map.spans.length, word s.assembler.openFlaws.length, flagWord s.starved] ++
    s.map.spans.flatMap spanWords

/-- WINDOW (R93). -/
def execWindow (l : Link) (_arg : Byte) (b : Body) (s : State) : Host.Outcome State Fault Refusal :=
  command (supervisorEntry 0x40 anyMode 0) l b (answer fun s => Reply.done (windowWords s)) s

end Sys2Proof.Machine
end

