-- ==== Sys2Proof/Machine/ModeCommands.lean ====
section
/-!
DEFINITION. The modes: MODE with its entry checks (sections 11.1 to 11.3), line clear (R185) and RESTART (R186).
-/

namespace Sys2Proof.Machine

/-! ## Line clear (R185) -/

/-- The intake's part of line clear (R38). -/
def Intake.lineClear (q : Intake) : Intake := { q with queue := [], inProcess := none }

/-- The travel unit's part of line clear: both compares are disarmed, and a deadline not yet opened is abandoned (R8, R10,
R185; log 24). -/
def Travel.lineClear (t : Travel) : Travel := { t with deadline := none, deadlineRaised := none, expiry := none }

/-- The production tables' part of line clear (R94, R111). -/
def Production.lineClear (p : Production) : Production :=
  { p with orders := p.orders.map fun o => { o with inFlight := 0 }, samples := [] }

/-- The planner's part of line clear (R135). -/
def Planner.lineClear (p : Planner) : Planner := { p with state := .idle, course := none, rows := [] }

/-- The dispatcher's part of line clear (R152). -/
def Dispatcher.lineClear (d : Dispatcher) : Dispatcher := { d with cuts := [], merged := none, aLast := none }

/-- The grader's part of line clear: waiting pieces are dropped, and a close in process runs on (R155). -/
def Grader.lineClear (g : Grader) : Grader :=
  { g with queue := [], closing := g.closing.map fun c => { c with cleared := true } }

/-- Line clear at every block, and FLUSH (R185). -/
def lineClear (s : State) : State :=
  raise .flush
    { s with
      travel := s.travel.lineClear
      intake := s.intake.lineClear
      assembler := ⟨Vector.replicate 32 none, 0⟩
      map := s.map.lineClear s.travel.p
      production := s.production.lineClear
      planner := s.planner.lineClear
      dispatcher := s.dispatcher.lineClear
      grader := s.grader.lineClear }

/-- The mode becomes SETUP and the switch none; MODE is set on all three links if the mode changes (R34, R185). -/
def returnToSetup (s : State) : State :=
  let s' := lineClear { s with mode := .setup, switch := none }
  if s.mode = .setup then s' else raiseMode s'

/-! ## The entry checks (R182) -/

/-- The lanes whose extent fails the entry check, one bit each (R182). -/
def laneFaults (lanes : Vector Across 12) : Nat :=
  (lanes.toList.zipIdx.map fun x => if x.1.xl < x.1.xr then 0 else 2 ^ x.2).sum

/-- A bit of a fault word. -/
def faultBit (ok : Bool) (bit : Nat) : Nat := if ok then 0 else 2 ^ bit

/-- The failure bits of the four entry checks (R182). -/
def entryFaults (c : Conf) : Nat :=
  faultBit (c.dCommit < c.dCut) 0 + faultBit (c.dCommit / c.cmin + 4 ≤ c.q) 1 + faultBit (laneFaults c.lanes == 0) 2 +
    faultBit (c.netZone.xl < c.netZone.xr) 3

/-! ## MODE (R180, R181) -/

/-- The mode in force, and the mode that the next opening puts in force (R181). -/
def modeWords (s : State) : List Word := [word s.mode.code, word (s.switch.getD s.mode).code]

/-- A request for RUN or CULL in SETUP: the entry checks, and the mode entry (R182, R183). -/
def requestEntry (m : Mode) (s : State) : State × Reply :=
  if entryFaults s.conf = 0 then (enterMode m s, Reply.done (modeWords (enterMode m s)))
  else (s, ⟨.refused, .range, [word (entryFaults s.conf), word (laneFaults s.conf.lanes)]⟩)

/-- A request for RUN or CULL in RUN or CULL sets or cancels the switch (the table of R180). -/
def requestSwitch (m : Mode) (s : State) : State := { s with switch := if s.mode = m then none else some m }

/-- A request for RUN or CULL (R180, R181). -/
def requestMode (m : Mode) (s : State) : State × Reply :=
  if s.mode = .setup then requestEntry m s else (requestSwitch m s, Reply.done (modeWords (requestSwitch m s)))

/-- A request for SETUP (R185); in SETUP it changes nothing (R181). -/
def requestSetup (s : State) : State × Reply :=
  if s.mode = .setup then (s, Reply.done (modeWords s)) else (returnToSetup s, Reply.done (modeWords (returnToSetup s)))

/-- MODE by its argument (R181). -/
def modeAct (arg : Byte) (s : State) : State × Reply :=
  match arg.toNat with
  | 0 => requestSetup s
  | 1 => requestMode .run s
  | 2 => requestMode .cull s
  | 3 => (s, Reply.done (modeWords s))
  | _ => (s, Reply.refused .range)

/-- The transfer of a MODE with any argument (R181). -/
def modeCommand (arg : Byte) (l : Link) (b : Body) (s : State) : Host.Outcome State Fault Refusal :=
  command (supervisorEntry 0x30 anyMode 0) l b (modeAct arg) s

/-- MODE with argument 3, or with an argument that is refused (R181; log 13). -/
def execModeRead (l : Link) (arg : Byte) (b : Body) (s : State) : Host.Outcome State Fault Refusal := modeCommand arg l b s

/-- MODE RUN (R181). -/
def execModeRun (l : Link) (b : Body) (s : State) : Host.Outcome State Fault Refusal := modeCommand 1 l b s

/-- MODE CULL (R181). -/
def execModeCull (l : Link) (b : Body) (s : State) : Host.Outcome State Fault Refusal := modeCommand 2 l b s

/-- MODE SETUP (R185). -/
def execModeSetup (l : Link) (b : Body) (s : State) : Host.Outcome State Fault Refusal := modeCommand 0 l b s

/-! ## RESTART (R186) -/

/-- A link's flags and mask are cleared, and its pending response is the empty response (R186). -/
def LinkState.restart (x : LinkState) : LinkState := { x with pending := Response.empty, flags := 0, mask := 0 }

/-- The links after RESTART; the STALE arm state is kept (R35). -/
def Links.restart (ls : Links) : Links :=
  { ls with gantry := ls.gantry.restart, cutter := ls.cutter.restart, supervisor := ls.supervisor.restart }

/-- RESTART's effects (R186): line clear, the order list, and the links. -/
def restart (s : State) : State :=
  let s' := returnToSetup s
  { s' with production := { s'.production with orders := [] }, links := s'.links.restart }

/-- RESTART (R186). Its own response is replaced by the empty response (R20). -/
def execRestart (l : Link) (_arg : Byte) (b : Body) (s : State) : Host.Outcome State Fault Refusal :=
  let entry := supervisorEntry 0x41 anyMode 0
  transfer l b
    (fun s =>
      match entry.refusal l b s.mode with
      | some why => (s, (Reply.refused why).response entry.code)
      | none => (restart s, Response.empty)) s

end Sys2Proof.Machine
end

