-- ==== Sys2Proof/Machine/PlannerSteps.lean ====
section
/-!
DEFINITION. The planner's steps DEADLINE_EVENT, COMMIT and HELD_COMMIT (chapter 7).
-/

namespace Sys2Proof.Machine

/-- A raised deadline event reaches the planner in ARMED, and the decision opens (R7, R120). -/
def receiveDeadline (s : State) : State :=
  match s.travel.deadlineRaised with
  | some _ => if s.planner.state = .armed then openDecision s else s
  | none => s

/-- DEADLINE_EVENT (R7, R120). -/
def execDeadlineEvent (s : State) : Host.Outcome State Fault Refusal := blockStep receiveDeadline s

/-- The decision in progress completes (R122). -/
def completeOpenDecision (s : State) : State :=
  match s.planner.course with
  | some c => if s.planner.state = .deciding then completeDecision c s else s
  | none => s

/-- COMMIT (R122). -/
def execCommit (s : State) : Host.Outcome State Fault Refusal := blockStep completeOpenDecision s

/-- HELD_COMMIT: the commit of a planner in HELD, once a row slot is free (R122). -/
def execHeldCommit (s : State) : Host.Outcome State Fault Refusal := dueStep settleHeld s

end Sys2Proof.Machine
end

