-- ==== Sys2Proof/Machine/ProductionCommands.lean ====
section
/-!
DEFINITION. The commands of the order list, the pattern table and the sample list: ORD_ADD, ORD_CLOSE, ORD_DROP, ORD_READ,
PAT and SAMPLE (sections 6.1, 6.2 and 6.4).
-/

namespace Sys2Proof.Machine

/-! ## PAT (R102, R103) -/

/-- The pattern index of a PAT argument: bits 2..0 (R103). -/
def patIndex (arg : Byte) : Fin 8 := (arg.extractLsb' 0 3).toFin

/-- A bit of a PAT argument other than 7 and 2..0 is set (R103). -/
def patArgBad (arg : Byte) : Bool := arg.extractLsb' 3 4 != 0

/-- The columns of a PAT write from its data words, `k` of them. -/
def columnsOf : Nat → List Word → List Across
  | k + 1, xl :: xr :: rest => ⟨xl.toNat, xr.toNat⟩ :: columnsOf k rest
  | _, _ => []

/-- A column lies inside the net zone and is at least 100 mm wide (R102). -/
def columnFits (zone c : Across) : Bool := zone.xl ≤ c.xl && c.xr ≤ zone.xr && c.xl + 100 ≤ c.xr

/-- The columns stand in ascending order and no two overlap (R102). -/
def columnsOrdered : List Across → Bool
  | c :: d :: rest => c.xr ≤ d.xl && columnsOrdered (d :: rest)
  | _ => true

/-- A pattern meets the conditions of R102. -/
def patternFits (zone : Across) (columns : List Across) : Bool := columns.all (columnFits zone) && columnsOrdered columns

/-- The words of a pattern: k and the 2k column words (R103). -/
def patternWords (columns : List Across) : List Word :=
  word columns.length :: columns.flatMap fun c => [word c.xl, word c.xr]

/-- A committed row that is not yet closed carries the pattern (R103, R118). -/
def patternInUse (i : Fin 8) (s : State) : Bool :=
  s.planner.rows.any fun r => !r.left && r.pattern == some i

/-- The table with a pattern written. -/
def setPattern (i : Fin 8) (columns : List Across) (s : State) : State :=
  { s with production := { s.production with patterns := s.production.patterns.set i columns } }

/-- A PAT write of `k` columns (R103; log 14). -/
def writePattern (arg : Byte) (k : Nat) (columns : List Across) (s : State) : State × Reply :=
  let i := patIndex arg
  if patArgBad arg || 4 < k then (s, Reply.refused .range)
  else if s.mode != .setup && patternInUse i s then (s, Reply.refused .busy)
  else if k = 0 ∧ s.production.orders.any (fun o => o.pattern == i) then (s, Reply.refused .busy)
  else if !patternFits s.conf.netZone columns then (s, Reply.refused .range)
  else (setPattern i columns s, Reply.done (patternWords columns))

/-- The fixed data words of a PAT write: k, and the 2k column words (R103). -/
def patFixed (ws : List Word) : Nat := 1 + 2 * valueAt ws 0

/-- PAT, a write (R103). -/
def execPatWrite (l : Link) (arg : Byte) (b : Body) (s : State) : Host.Outcome State Fault Refusal :=
  command (supervisorEntry 0x34 anyMode (patFixed b.data)) l b
    (writePattern arg (valueAt b.data 0) (columnsOf (valueAt b.data 0) (b.data.drop 1))) s

/-- PAT with bit 7 set (R103). -/
def readPattern (arg : Byte) (s : State) : Reply :=
  if patArgBad arg then Reply.refused .range else Reply.done (patternWords s.production.patterns[patIndex arg])

/-- PAT, a read (R103). -/
def execPatRead (l : Link) (arg : Byte) (b : Body) (s : State) : Host.Outcome State Fault Refusal :=
  command (supervisorEntry 0x34 anyMode 0) l b (answer (readPattern arg)) s

/-! ## ORD_ADD (R98) -/

/-- The grade a required-grade word names: 1 A, 2 B, 3 C (R98). -/
def requiredGrade (n : Nat) : Option Grade :=
  match n with
  | 1 => some .a
  | 2 => some .b
  | 3 => some .c
  | _ => none

/-- A short length word: 0 means absent (R98). -/
def shortLength (n : Nat) : Option Nat := if n = 0 then none else some n

/-- A short length is absent, or within Cmin..Lp − 1 (R98). -/
def shortInRange (cmin lp n : Nat) : Bool := n == 0 || (cmin ≤ n && n < lp)

/-- The pattern a word names: one of 0..7, and defined (R98, R102). -/
def definedPattern (patterns : Vector (List Across) 8) (n : Nat) : Option (Fin 8) :=
  if h : n < 8 then if patterns[n].isEmpty then none else some ⟨n, h⟩ else none

/-- The order of the seven words of ORD_ADD; none when a field is outside its range (R98). -/
def orderOf (ws : List Word) (s : State) : Option Order :=
  match definedPattern s.production.patterns (valueAt ws 3), requiredGrade (valueAt ws 4) with
  | some pattern, some grade =>
    if valueAt ws 0 = 0 ∨ valueAt ws 1 < s.conf.cmin ∨ 7000 < valueAt ws 1 ∨
        !shortInRange s.conf.cmin (valueAt ws 1) (valueAt ws 2) ∨ valueAt ws 5 = 0 ∨ 15 < valueAt ws 6 then none
    else
      some
        { id := valueAt ws 0
          lp := valueAt ws 1
          short := shortLength (valueAt ws 2)
          pattern := pattern
          grade := grade
          wanted := valueAt ws 5
          stacker := valueAt ws 6
          delivered := 0
          inFlight := 0
          state := .opened }
  | _, _ => none

/-- The part with another order list. -/
def setOrders (orders : List Order) (s : State) : State := { s with production := { s.production with orders := orders } }

/-- ORD_ADD by its argument and words (R98). -/
def addOrder (arg : Byte) (ws : List Word) (s : State) : State × Reply :=
  let orders := s.production.orders
  if 1 < arg.toNat then (s, Reply.refused .range)
  else
    match orderOf ws s with
    | none => (s, Reply.refused .range)
    | some o =>
      if orders.any fun x => x.id == o.id then (s, Reply.refused .duplicate)
      else if Config.orderCapacity ≤ orders.length then (s, Reply.refused .full)
      else if arg = 0 then (setOrders (orders ++ [o]) s, Reply.done [word orders.length])
      else (setOrders (o :: orders) s, Reply.done [0])

/-- ORD_ADD (R98). -/
def execOrdAdd (l : Link) (arg : Byte) (b : Body) (s : State) : Host.Outcome State Fault Refusal :=
  command (supervisorEntry 0x35 anyMode 7) l b (addOrder arg b.data) s

/-! ## ORD_CLOSE, ORD_DROP, ORD_READ (R99 to R101) -/

/-- An order is closed (R99). -/
def Order.close (o : Order) : Order := { o with wanted := o.delivered + o.inFlight, state := .closed }

/-- ORD_CLOSE of an id (R99). -/
def closeOrder (id : Nat) (s : State) : State × Reply :=
  match s.production.order id with
  | some o =>
    ({ s with production := s.production.updateOrder id Order.close }, Reply.done [word o.close.wanted, word o.delivered])
  | none => (s, Reply.refused .notFound)

/-- ORD_CLOSE (R99). -/
def execOrdClose (l : Link) (_arg : Byte) (b : Body) (s : State) : Host.Outcome State Fault Refusal :=
  command (supervisorEntry 0x36 anyMode 1) l b (closeOrder (valueAt b.data 0)) s

/-- The decision in progress learns that its order has left the list: an order added again under the same id is another
order (R128; log 19). -/
def Planner.orderLeft (id : Nat) (p : Planner) : Planner :=
  match p.course with
  | some (.product c) => if c.order = id then { p with course := some (.product { c with present := false }) } else p
  | _ => p

/-- The order leaves the list (R100). -/
def removeOrder (id : Nat) (s : State) : State :=
  { s with
    production := { s.production with orders := s.production.orders.eraseP fun o => o.id == id }
    planner := s.planner.orderLeft id }

/-- ORD_DROP of an id (R100). -/
def dropOrder (id : Nat) (s : State) : State × Reply :=
  match s.production.order id with
  | some o =>
    if o.state = .opened ∨ 0 < o.inFlight then (s, Reply.refused .busy) else (removeOrder id s, Reply.done [])
  | none => (s, Reply.refused .notFound)

/-- ORD_DROP (R100). -/
def execOrdDrop (l : Link) (_arg : Byte) (b : Body) (s : State) : Host.Outcome State Fault Refusal :=
  command (supervisorEntry 0x37 anyMode 1) l b (dropOrder (valueAt b.data 0)) s

/-- The fifteen words of ORD_READ for the order at a position (R101). -/
def orderWords (s : State) (position : Nat) (o : Order) : List Word :=
  [word o.id, word o.lp, word (o.short.getD 0), word o.pattern, word o.grade.code, word o.wanted, word o.delivered,
    word o.inFlight, word o.need, word o.stacker, word o.state.code, word position, word s.production.orders.length,
    flagWord ((activeOrder s.production.orders).any fun x => x.id == o.id), flagWord s.starved]

/-- The position ORD_READ names: by an id, or by itself (R101). -/
def positionOf (arg : Byte) (n : Nat) (orders : List Order) : Option Nat :=
  if arg = 0 then orders.findIdx? fun o => o.id == n else if n < orders.length then some n else none

/-- ORD_READ by its argument and word (R101). -/
def readOrder (arg : Byte) (n : Nat) (s : State) : Reply :=
  if 1 < arg.toNat then Reply.refused .range
  else
    match positionOf arg n s.production.orders with
    | some i =>
      match s.production.orders[i]? with
      | some o => Reply.done (orderWords s i o)
      | none => Reply.refused .notFound
    | none => Reply.refused .notFound

/-- ORD_READ (R101). -/
def execOrdRead (l : Link) (arg : Byte) (b : Body) (s : State) : Host.Outcome State Fault Refusal :=
  command (supervisorEntry 0x38 anyMode 1) l b (answer (readOrder arg (valueAt b.data 0))) s

/-! ## SAMPLE (R111 to R113) -/

/-- The position of the list that a request at `m` is merged into: the nearest closer than Ls, the earlier of two equally
near (R112). -/
def mergedInto (ls m : Nat) (samples : List Nat) : Option Nat :=
  match samples.filter fun e => distance m e < ls with
  | [] => none
  | e :: rest => some (leastBy (distance m) e rest)

/-- A position joins the sample list at its place (R112). -/
def insertSample (m : Nat) (s : State) : State :=
  { s with
    production := { s.production with samples := insertOrdered (fun a b => a < b) m s.production.samples } }

/-- The words of a SAMPLE request's response: the position that stands for it, and the number in the list (R112). -/
def sampleReply (clamped : Bool) (position : Nat) (count : Nat) : Reply :=
  let ws := words32 position ++ [word count]
  if clamped then Reply.adjusted .clamped ws else Reply.done ws

/-- SAMPLE with argument 0 at position `asked` (R112). -/
def requestSample (asked : Nat) (s : State) : State × Reply :=
  let m := max asked s.planner.s
  let clamped := decide (asked < s.planner.s)
  let samples := s.production.samples
  match mergedInto s.conf.ls m samples with
  | some e => (s, sampleReply clamped e samples.length)
  | none =>
    if Config.sampleCapacity ≤ samples.length then (s, Reply.refused .full)
    else (insertSample m s, sampleReply clamped m (samples.length + 1))

/-- SAMPLE, a request (R112). -/
def execSampleRequest (l : Link) (b : Body) (s : State) : Host.Outcome State Fault Refusal :=
  command (supervisorEntry 0x3B notSetup 2) l b (requestSample (value32At b.data 0)) s

/-- The decision in progress learns that its position has left the list (R123; log 19). -/
def Planner.sampleLeft (m : Nat) (p : Planner) : Planner :=
  match p.course with
  | some (.sample e _) => if e = m then { p with course := some (.sample e false) } else p
  | _ => p

/-- SAMPLE with argument 1 at position `m` (R113). -/
def cancelSample (m : Nat) (s : State) : State × Reply :=
  if m ∈ s.production.samples then
    ({ s with
        production := { s.production with samples := s.production.samples.erase m }
        planner := s.planner.sampleLeft m },
      Reply.done [])
  else (s, Reply.refused .notFound)

/-- SAMPLE, a cancel (R113). -/
def execSampleCancel (l : Link) (b : Body) (s : State) : Host.Outcome State Fault Refusal :=
  command (supervisorEntry 0x3B notSetup 2) l b (cancelSample (value32At b.data 0)) s

/-- SAMPLE with an argument other than 0 and 1 (R113). -/
def readSamples (arg : Byte) (s : State) : Reply :=
  if arg = 2 then Reply.done (word s.production.samples.length :: s.production.samples.flatMap words32)
  else Reply.refused .range

/-- SAMPLE, a read of the list, or an argument that is refused (R113; log 13). -/
def execSampleRead (l : Link) (arg : Byte) (b : Body) (s : State) : Host.Outcome State Fault Refusal :=
  command (supervisorEntry 0x3B notSetup 0) l b (answer (readSamples arg)) s

end Sys2Proof.Machine
end

