-- ==== Sys2Proof/Machine/RecipeCommands.lean ====
section
/-!
DEFINITION. RCP and RCP_ARM (section 6.3).
-/

namespace Sys2Proof.Machine

/-! ## Sections (R105, R106) -/

/-- The section an RCP argument names: bits 3..0, with bits 5..4 clear, and 0..10 (R105). -/
def sectionOf (arg : Byte) : Option Nat :=
  if arg.extractLsb' 4 2 = 0 ∧ (arg.extractLsb' 0 4).toNat ≤ 10 then some (arg.extractLsb' 0 4).toNat else none

/-- The five words of a kind entry (R106). -/
def KindEntry.words (e : KindEntry) : List Word := [word e.gate, word e.smin, word e.smaj, word e.scrit, word e.weight]

/-- The five words of the grade limits (R106). -/
def Limits.words (g : Limits) : List Word := [word g.da, word g.db, word g.nb, word g.edge, word g.fe]

/-- The four words of section 10 (R106). -/
def RecipeStore.words (r : RecipeStore) : List Word :=
  [word r.generation, flagWord r.armedAt.isSome] ++ words32 (r.armedAt.getD 0)

/-- The words of a section of a recipe (R106). -/
def sectionWords (store : RecipeStore) (r : Recipe) (sec : Nat) : List Word :=
  if h : sec < 8 then r.kinds[sec].words
  else if sec = 8 then r.limits.words
  else if sec = 9 then [word r.policy.code]
  else store.words

/-- The kind entry five words give, checked whole (R105). -/
def kindEntryOf (ws : List Word) : Option KindEntry :=
  let e : KindEntry := ⟨valueAt ws 0, valueAt ws 1, valueAt ws 2, valueAt ws 3, valueAt ws 4⟩
  if e.gate ≤ 255 ∧ e.weight ≤ 255 ∧ 1 ≤ e.smin ∧ e.smin ≤ e.smaj ∧ e.smaj ≤ e.scrit then some e else none

/-- The grade limits five words give, checked whole (R105). -/
def limitsOf (ws : List Word) : Option Limits :=
  let g : Limits := ⟨valueAt ws 0, valueAt ws 1, valueAt ws 2, valueAt ws 3, valueAt ws 4⟩
  if g.da ≤ g.db ∧ g.nb ≤ 15 ∧ g.edge ≤ 255 ∧ g.fe ≤ 64 then some g else none

/-- The blind policy a word gives (R105). -/
def policyOf (n : Nat) : Option BlindPolicy :=
  match n with
  | 0 => some .cull
  | 1 => some .pass
  | _ => none

/-- A recipe with one section written; none when the section fails a check (R105). Section 10 copies the current recipe. -/
def writeSection (current r : Recipe) (sec : Nat) (ws : List Word) : Option Recipe :=
  if h : sec < 8 then (kindEntryOf ws).map fun e => { r with kinds := r.kinds.set sec e }
  else if sec = 8 then (limitsOf ws).map fun g => { r with limits := g }
  else if sec = 9 then (policyOf (valueAt ws 0)).map fun p => { r with policy := p }
  else some current

/-- The store with another pending recipe. -/
def setPendingRecipe (r : Recipe) (s : State) : State := { s with recipes := { s.recipes with pending := r } }

/-- An RCP write of a section (R105). -/
def writeRecipe (sec : Option Nat) (ws : List Word) (s : State) : State × Reply :=
  match sec with
  | none => (s, Reply.refused .range)
  | some n =>
    if s.recipes.armedAt.isSome then (s, Reply.refused .busy)
    else
      match writeSection s.recipes.current s.recipes.pending n ws with
      | some r => (setPendingRecipe r s, Reply.done (sectionWords s.recipes r n))
      | none => (s, Reply.refused .range)

/-- The fixed data words of an RCP write; an argument that names no section has none (R105; log 14). -/
def sectionFixed : Option Nat → Nat
  | some n => if n ≤ 8 then 5 else if n = 9 then 1 else 0
  | none => 0

/-- The transfer of an RCP write of a section. -/
def recipeWrite (sec : Option Nat) (l : Link) (b : Body) (s : State) : Host.Outcome State Fault Refusal :=
  command (supervisorEntry 0x39 anyMode (sectionFixed sec)) l b (writeRecipe sec b.data) s

/-- RCP, a write of a kind entry, or of a section that does not exist (R105; log 13). -/
def execRcpWriteKind (l : Link) (arg : Byte) (b : Body) (s : State) : Host.Outcome State Fault Refusal :=
  recipeWrite (sectionOf arg) l b s

/-- RCP, a write of the grade limits (R105). -/
def execRcpWriteLimits (l : Link) (b : Body) (s : State) : Host.Outcome State Fault Refusal := recipeWrite (some 8) l b s

/-- RCP, a write of the blind policy (R105). -/
def execRcpWritePolicy (l : Link) (b : Body) (s : State) : Host.Outcome State Fault Refusal := recipeWrite (some 9) l b s

/-- RCP, the copy of the current recipe into the pending one (R105). -/
def execRcpCopy (l : Link) (b : Body) (s : State) : Host.Outcome State Fault Refusal := recipeWrite (some 10) l b s

/-- An RCP read: bit 6 the pending recipe, bit 7 the current one, and both refused (R106). -/
def readRecipe (arg : Byte) (s : State) : Reply :=
  if arg.getLsbD 7 && arg.getLsbD 6 then Reply.refused .range
  else
    match sectionOf arg with
    | some n => Reply.done (sectionWords s.recipes (if arg.getLsbD 7 then s.recipes.current else s.recipes.pending) n)
    | none => Reply.refused .range

/-- RCP, a read (R106). -/
def execRcpRead (l : Link) (arg : Byte) (b : Body) (s : State) : Host.Outcome State Fault Refusal :=
  command (supervisorEntry 0x39 anyMode 0) l b (answer (readRecipe arg)) s

/-! ## RCP_ARM (R107, R108) -/

/-- The pending recipe is armed at an RC (R107). -/
def armRecipe (a : Nat) (s : State) : State := { s with recipes := { s.recipes with armedAt := some a } }

/-- The three words of an RCP_ARM response: a, and whether the recipe was promoted by the command (R107). -/
def armWords (a : Nat) (promoted : Bool) : List Word := words32 a ++ [flagWord promoted]

/-- An arming in RUN or CULL: clamped to W, armed, and tested at once (R107, R109). -/
def armTested (asked : Nat) (s : State) : State × Reply :=
  let a := max asked s.map.w
  let armed := armRecipe a s
  let ws := armWords a (armed.promotes a)
  (promotionTest armed, if asked < s.map.w then Reply.adjusted .clamped ws else Reply.done ws)

/-- RCP_ARM with argument 0 (R107). -/
def armAt (asked : Nat) (s : State) : State × Reply :=
  if s.recipes.armedAt.isSome then (s, Reply.refused .busy)
  else if s.mode = .setup then (promote s, Reply.done (armWords asked true))
  else armTested asked s

/-- The fixed data words of RCP_ARM: two to arm; an undefined argument has none (R107; log 14). -/
def armFixed (arg : Byte) : Nat := if arg = 0 then 2 else 0

/-- RCP_ARM, an arming, or an argument that is refused (R107; log 13). -/
def execRcpArm (l : Link) (arg : Byte) (b : Body) (s : State) : Host.Outcome State Fault Refusal :=
  command (supervisorEntry 0x3A anyMode (armFixed arg)) l b
    (fun s => if arg = 0 then armAt (value32At b.data 0) s else (s, Reply.refused .range)) s

/-- The pending recipe is disarmed (R108). -/
def disarmRecipe (s : State) : State := { s with recipes := { s.recipes with armedAt := none } }

/-- RCP_ARM, a disarming (R108). -/
def execRcpDisarm (l : Link) (b : Body) (s : State) : Host.Outcome State Fault Refusal :=
  command (supervisorEntry 0x3A anyMode 0) l b (fun s => (disarmRecipe s, Reply.done (armWords 0 false))) s

end Sys2Proof.Machine
end

