-- ==== Sys2Proof/Machine/ResetSteps.lean ====
section
/-!
DEFINITION. POWER_ON, PIN_RESET and INTERNAL_RESET_END (section 11.6), and the travel unit's steps ENC_PULSE, TICK,
STOPPED_SET and TIME_STEP (chapter 1).
-/

namespace Sys2Proof.Machine

/-- The part with the internal reset asserted: every block at its power-on and pin reset value (R188). The queue of
commands is the model's own and stays. -/
def resetAsserted (s : State) : State := { State.reset with inReset := true, pending := s.pending }

/-- POWER_ON: supply is applied, which acts as a reset (R188). -/
def execPowerOn (s : State) : Host.Outcome State Fault Refusal := .next (resetAsserted s)

/-- PIN_RESET: RSTN has been held active; from 2 µs on it is a reset, and a shorter pulse is ignored (R188). -/
def execPinReset (heldNs : Nat) (s : State) : Host.Outcome State Fault Refusal :=
  .next (if Config.resetPulseNs ≤ heldNs then resetAsserted s else s)

/-- INTERNAL_RESET_END: the part works from here on (R189). -/
def execInternalResetEnd (s : State) : Host.Outcome State Fault Refusal := .next { s with inReset := false }

/-- ENC_PULSE: a pulse is counted (R2); while the internal reset is asserted it is not (R4). -/
def execEncPulse (s : State) : Host.Outcome State Fault Refusal := blockStep pulse s

/-- TICK: the divider completes its count (R11); while the internal reset is asserted it does not run (R188). -/
def execTick (s : State) : Host.Outcome State Fault Refusal :=
  blockStep (fun s => { s with travel := s.travel.tick }) s

/-- STOPPED_SET: the stopped flag is set when the last-pulse time has reached 2,000 (R12). -/
def execStoppedSet (s : State) : Host.Outcome State Fault Refusal := dueStep settleStop s

/-- TIME_STEP: the time of day steps when the millisecond count has carried over (R13). -/
def execTimeStep (s : State) : Host.Outcome State Fault Refusal := dueStep settleStep s

end Sys2Proof.Machine
end

