-- ==== Sys2Proof/Machine/Dispatch.lean ====
section
/-!
DEFINITION. What each command does: one arm per row of spec/opcode_table.json.
-/

namespace Sys2Proof.Machine

def exec (i : Instr) (s : State) : Host.Outcome State Fault Refusal :=
  match i with
  | .powerOn => Sys2Proof.Machine.execPowerOn s
  | .pinReset heldNs => Sys2Proof.Machine.execPinReset heldNs s
  | .internalResetEnd => Sys2Proof.Machine.execInternalResetEnd s
  | .encPulse => Sys2Proof.Machine.execEncPulse s
  | .tick => Sys2Proof.Machine.execTick s
  | .stoppedSet => Sys2Proof.Machine.execStoppedSet s
  | .timeStep => Sys2Proof.Machine.execTimeStep s
  | .deadlineEvent => Sys2Proof.Machine.execDeadlineEvent s
  | .commit => Sys2Proof.Machine.execCommit s
  | .heldCommit => Sys2Proof.Machine.execHeldCommit s
  | .expiry => Sys2Proof.Machine.execExpiry s
  | .emptyTransfer l tail => Sys2Proof.Machine.execEmptyTransfer l tail s
  | .unknownCommand l code arg b => Sys2Proof.Machine.execUnknownCommand l code arg b s
  | .nop l arg b => Sys2Proof.Machine.execNop l arg b s
  | .evt l arg b => Sys2Proof.Machine.execEvt l arg b s
  | .mask l arg b => Sys2Proof.Machine.execMask l arg b s
  | .pos l arg b => Sys2Proof.Machine.execPos l arg b s
  | .det l arg b => Sys2Proof.Machine.execDet l arg b s
  | .bkg l arg b => Sys2Proof.Machine.execBkg l arg b s
  | .mark l arg b => Sys2Proof.Machine.execMark l arg b s
  | .gap l arg b => Sys2Proof.Machine.execGap l arg b s
  | .gstat l arg b => Sys2Proof.Machine.execGstat l arg b s
  | .entryTake => Sys2Proof.Machine.execEntryTake s
  | .backgroundEntryComplete => Sys2Proof.Machine.execBackgroundEntryComplete s
  | .detectionEntryComplete => Sys2Proof.Machine.execDetectionEntryComplete s
  | .markEntryComplete => Sys2Proof.Machine.execMarkEntryComplete s
  | .gapEntryComplete => Sys2Proof.Machine.execGapEntryComplete s
  | .take l arg b => Sys2Proof.Machine.execTake l arg b s
  | .doneOk l arg b => Sys2Proof.Machine.execDoneOk l arg b s
  | .doneMissed l b => Sys2Proof.Machine.execDoneMissed l b s
  | .route l arg b => Sys2Proof.Machine.execRoute l arg b s
  | .cstat l arg b => Sys2Proof.Machine.execCstat l arg b s
  | .pieceTake => Sys2Proof.Machine.execPieceTake s
  | .cullPieceClose => Sys2Proof.Machine.execCullPieceClose s
  | .platePieceClose => Sys2Proof.Machine.execPlatePieceClose s
  | .modeRead l arg b => Sys2Proof.Machine.execModeRead l arg b s
  | .modeRun l b => Sys2Proof.Machine.execModeRun l b s
  | .modeCull l b => Sys2Proof.Machine.execModeCull l b s
  | .modeSetup l b => Sys2Proof.Machine.execModeSetup l b s
  | .restart l arg b => Sys2Proof.Machine.execRestart l arg b s
  | .time l arg b => Sys2Proof.Machine.execTime l arg b s
  | .shiftsWrite l b => Sys2Proof.Machine.execShiftsWrite l b s
  | .shiftsRead l arg b => Sys2Proof.Machine.execShiftsRead l arg b s
  | .shiftClose l arg b => Sys2Proof.Machine.execShiftClose l arg b s
  | .report l arg b => Sys2Proof.Machine.execReport l arg b s
  | .patWrite l arg b => Sys2Proof.Machine.execPatWrite l arg b s
  | .patRead l arg b => Sys2Proof.Machine.execPatRead l arg b s
  | .ordAdd l arg b => Sys2Proof.Machine.execOrdAdd l arg b s
  | .ordClose l arg b => Sys2Proof.Machine.execOrdClose l arg b s
  | .ordDrop l arg b => Sys2Proof.Machine.execOrdDrop l arg b s
  | .ordRead l arg b => Sys2Proof.Machine.execOrdRead l arg b s
  | .rcpWriteKind l arg b => Sys2Proof.Machine.execRcpWriteKind l arg b s
  | .rcpWriteLimits l b => Sys2Proof.Machine.execRcpWriteLimits l b s
  | .rcpWritePolicy l b => Sys2Proof.Machine.execRcpWritePolicy l b s
  | .rcpCopy l b => Sys2Proof.Machine.execRcpCopy l b s
  | .rcpRead l arg b => Sys2Proof.Machine.execRcpRead l arg b s
  | .rcpArm l arg b => Sys2Proof.Machine.execRcpArm l arg b s
  | .rcpDisarm l b => Sys2Proof.Machine.execRcpDisarm l b s
  | .sampleRequest l b => Sys2Proof.Machine.execSampleRequest l b s
  | .sampleCancel l b => Sys2Proof.Machine.execSampleCancel l b s
  | .sampleRead l arg b => Sys2Proof.Machine.execSampleRead l arg b s
  | .flaw l arg b => Sys2Proof.Machine.execFlaw l arg b s
  | .plate l arg b => Sys2Proof.Machine.execPlate l arg b s
  | .window l arg b => Sys2Proof.Machine.execWindow l arg b s
  | .confEncoderScale l b => Sys2Proof.Machine.execConfEncoderScale l b s
  | .confDCut l b => Sys2Proof.Machine.execConfDCut l b s
  | .confDCommit l b => Sys2Proof.Machine.execConfDCommit l b s
  | .confTLate l b => Sys2Proof.Machine.execConfTLate l b s
  | .confClockSelect l b => Sys2Proof.Machine.execConfClockSelect l b s
  | .confStaleDistance l b => Sys2Proof.Machine.execConfStaleDistance l b s
  | .confKu l b => Sys2Proof.Machine.execConfKu l b s
  | .confKd l b => Sys2Proof.Machine.execConfKd l b s
  | .confJ l b => Sys2Proof.Machine.execConfJ l b s
  | .confG l b => Sys2Proof.Machine.execConfG l b s
  | .confNetZone l b => Sys2Proof.Machine.execConfNetZone l b s
  | .confCmin l b => Sys2Proof.Machine.execConfCmin l b s
  | .confCmax l b => Sys2Proof.Machine.execConfCmax l b s
  | .confCullMargin l b => Sys2Proof.Machine.execConfCullMargin l b s
  | .confLs l b => Sys2Proof.Machine.execConfLs l b s
  | .confQ l b => Sys2Proof.Machine.execConfQ l b s
  | .confTDev l b => Sys2Proof.Machine.execConfTDev l b s
  | .confLaneExtent l arg b => Sys2Proof.Machine.execConfLaneExtent l arg b s
  | .confDestination l arg b => Sys2Proof.Machine.execConfDestination l arg b s

end Sys2Proof.Machine
end

