-- ==== Sys2Proof/Safety.lean ====
section
/-!
DEFINITION. The vocabulary of statements about the part: when it works with nothing due, what a transfer leaves behind,
and the laws the manual states of its state at every moment.
-/

namespace Sys2Proof.Machine

/-! ## Working and answering -/

/-- The internal reset is not asserted, and no step is due (log 4). -/
def Working (s : State) : Prop := s.inReset = false ∧ s.quiet = true

/-- `s` after a transfer on link `l` whose command replied `r`: the words shifted out are those of the response that was
pending, and the new response is pending (R19). Nothing else differs from `s`. -/
def transferred (l : Link) (b : Body) (code : Byte) (r : Reply) (s : State) : State :=
  s.setLink l
    { s.link l with
      shifted := (s.link l).pending.shiftOut (b.data.length + 1)
      pending := r.response code }

/-- A command that was refused for a reason. -/
def refusedFor (l : Link) (b : Body) (code : Byte) (why : Reason) (s : State) : State :=
  transferred l b code (Reply.refused why) s

/-- The link a defined code belongs to, where it belongs to one (the acceptance table of section 2.4). -/
def ownerOfCode (code : Byte) : Option Link :=
  if 0x10 ≤ code.toNat ∧ code.toNat ≤ 0x14 then some .gantry
  else if 0x20 ≤ code.toNat ∧ code.toNat ≤ 0x23 then some .cutter
  else if 0x30 ≤ code.toNat ∧ code.toNat ≤ 0x41 then some .supervisor
  else none

/-- The fixed data words of an RCP write by its argument (R105). -/
def rcpFixedWords (arg : Byte) : Nat :=
  if arg.toNat ≤ 8 then 5 else if arg = 9 then 1 else 0

/-- The fixed data words of a command whose count does not depend on its data (R23 and each command's entry). -/
def fixedWordsOf (code arg : Byte) : Nat :=
  match code.toNat with
  | 0x00 => arg.toNat
  | 0x02 => 1
  | 0x10 => 5
  | 0x11 => 2
  | 0x12 => 2
  | 0x13 => 4
  | 0x21 => 2
  | 0x32 => 2
  | 0x33 => if arg = 0 then 12 else 0
  | 0x35 => 7
  | 0x36 => 1
  | 0x37 => 1
  | 0x38 => 1
  | 0x39 => rcpFixedWords arg
  | 0x3A => if arg = 0 then 2 else 0
  | 0x3B => if arg = 0 ∨ arg = 1 then 2 else 0
  | 0x3C => 1
  | 0x3D => 1
  | _ => 0

/-- The codes refused in SETUP: DET, BKG, MARK, GAP and SAMPLE (R25). -/
def refusedInSetup (code : Byte) : Bool := (0x10 ≤ code.toNat && code.toNat ≤ 0x13) || code.toNat == 0x3B

/-! ## Decisions that complete -/

/-- `c` is the step that completes the decision in progress, and the row table has a free slot (R122). -/
def Completes (c : Instr) (s : State) : Prop :=
  s.planner.rows.length < 18 ∧
    ((c = .commit ∧ s.planner.state = .deciding ∧ Working s) ∨
      (c = .heldCommit ∧ s.planner.state = .held ∧ s.inReset = false))

/-! ## Compares, rows and flaws -/

/-- In `t` the expiry compare watches the head of the cut queue, or nothing when the queue is empty: it is armed with the
head's seq and target, or has raised at the arming, `raised` being the events raised before it (R9, R139). -/
def ExpiryFollowsHead (raised : List Nat) (t : State) : Prop :=
  (t.dispatcher.cuts = [] → t.travel.expiry = none ∧ t.travel.expiryRaised = raised) ∧
    ∀ c rest, t.dispatcher.cuts = c :: rest →
      (c.target + t.conf.dCut + t.conf.tLate < t.travel.p →
          t.travel.expiry = none ∧ t.travel.expiryRaised = raised ++ [c.seq]) ∧
        (t.travel.p ≤ c.target + t.conf.dCut + t.conf.tLate →
          t.travel.expiry = some ⟨c.seq, c.target⟩ ∧ t.travel.expiryRaised = raised)

/-- `t` is `s` after the commit of `row` (R122): the row and its trailing cut, the next row id and seq, the plan start and the
deadline compare, the expiry compare where the cut is the new head (R139), and BLIND with its count where the row is blind;
READY and STARVED are set where they rise. The order list and the sample list are left open here. -/
def RowLaid (s t : State) (row : Row) (blind : Bool) : Prop :=
  let p := s.planner
  let d := s.dispatcher
  let target := row.stop + s.conf.dCut - s.conf.dCommit
  let count := s.accounts.counts.blindRows
  t.planner =
      { p with
        state := .armed
        s := row.stop
        nextRowId := if p.nextRowId < 65535 then p.nextRowId + 1 else 0
        course := none
        rows := p.rows ++ [row] } ∧
    t.dispatcher =
      { d with
        nextSeq := if d.nextSeq < 65535 then d.nextSeq + 1 else 0
        cuts := d.cuts ++ [⟨d.nextSeq, row.stop, row.kind, row.pattern, some row.id, .queued⟩] } ∧
    (s.travel.p < target →
      t.travel.deadline = some row.stop ∧ t.travel.deadlineRaised = s.travel.deadlineRaised) ∧
    (target ≤ s.travel.p → t.travel.deadline = none ∧ t.travel.deadlineRaised = some row.stop) ∧
    (d.cuts = [] → ExpiryFollowsHead s.travel.expiryRaised t) ∧
    (d.cuts ≠ [] → t.travel.expiry = s.travel.expiry ∧ t.travel.expiryRaised = s.travel.expiryRaised) ∧
    t.accounts =
      { s.accounts with
        counts :=
          { s.accounts.counts with
            blindRows := if blind then (if count < 65535 then count + 1 else count) else count } } ∧
    t.links =
      { s.links with
        cutter := { s.links.cutter with flags := s.links.cutter.flags ||| (if s.ready then 0 else 1) }
        supervisor :=
          { s.links.supervisor with
            flags :=
              s.links.supervisor.flags ||| (if blind then 8 else 0) |||
                (if s.starved = false ∧ t.starved = true then 2 else 0) } } ∧
    { t.travel with
      deadline := s.travel.deadline
      deadlineRaised := s.travel.deadlineRaised
      expiry := s.travel.expiry
      expiryRaised := s.travel.expiryRaised } = s.travel ∧
    t.production.patterns = s.production.patterns ∧
    { t with
      planner := s.planner
      dispatcher := s.dispatcher
      travel := s.travel
      accounts := s.accounts
      links := s.links
      production := s.production } = s

/-- From `s` to `t` the row of cut `c`, where the row table has it, is folded: it leaves the row table and gives its order
plates back (R145). Where it has none, the row table and the orders stay. -/
def RowFolded (c : Cut) (s t : State) : Prop :=
  (∀ id row, c.row = some id → s.planner.rows.find? (fun r => r.id == id) = some row →
      t.planner = { s.planner with rows := removeRow id s.planner.rows } ∧
        { t.production with orders := s.production.orders } = s.production ∧
        (∀ oid o, row.order = some oid → s.production.order oid = some o →
          t.production.order oid = some { o with inFlight := o.inFlight - row.orderPlates } ∧
            ∀ other, other ≠ oid → t.production.order other = s.production.order other) ∧
        (row.order = none → t.production = s.production)) ∧
    ((∀ id, c.row = some id → s.planner.rows.find? (fun r => r.id == id) = none) →
      t.planner = s.planner ∧ t.production = s.production)

/-- `e` is the end of the cull chain that begins at `begun` (R129): the least end from there on that no rejecter reaches past
unless it starts Cmin or more after it. -/
def ChainEnd (cmin : Nat) (found : List Rejecter) (begun e : Nat) : Prop :=
  begun ≤ e ∧ (∀ r ∈ found, r.first < e + cmin → r.last + 1 ≤ e) ∧
    ∀ e', begun ≤ e' → (∀ r ∈ found, r.first < e' + cmin → r.last + 1 ≤ e') → e ≤ e'

/-- The part when the assembler has done with its detection; one that is late and kept is counted and raises LATE (R60). -/
def detectionBegun (s : State) (late : Bool) : State :=
  let taken : State := { s with intake := { s.intake with inProcess := none } }
  let count := s.accounts.counts.late
  if late then
    { taken with
      accounts :=
        { s.accounts with counts := { s.accounts.counts with late := if count < 65535 then count + 1 else count } }
      links := { s.links with gantry := { s.links.gantry with flags := s.links.gantry.flags ||| 8 } } }
  else taken

/-- The flaw `f` in slot `i`, which a late detection has joined or opened, is closed at once when the watermark has passed it
(R61). -/
def closedIfPassed (late : Bool) (i : Fin 32) (f : OpenFlaw) (t : State) : State :=
  if late = true ∧ f.lastRow + t.conf.gapTol < t.map.w then closeFlaw false ⟨i, f⟩ t else t

/-! ## Laws of the part's state -/

/-- The position of a MARK entry; 0 for the other kinds. -/
def Entry.markPosition : Entry → Nat
  | .mark m => m
  | _ => 0

/-- The entries that wait or are in process. -/
def Intake.entries (q : Intake) : List Entry := q.queue ++ q.inProcess.toList

/-- W ≤ P, and no MARK that waits lies beyond P; P and the remainder are in range (R2, R3, R88). -/
def WatermarkLaw (s : State) : Prop :=
  s.travel.p ≤ Config.rcMax ∧ s.travel.remainder ≤ 999 ∧ s.map.w ≤ s.travel.p ∧
    ∀ e ∈ s.intake.entries, e.markPosition ≤ s.travel.p

/-- The intake queue, the order list, the sample list, the row table, the routing list, the close queue, the plate log and the
report store hold no more than their capacities (R36, R94, R111, R118, R148, R153, R167, R178), and the intake counters and
the next plate id lie in their ranges (R47, R165). The cut queue is no part of this law: an append to it makes no test of Q
(R136; log 22). -/
def CapacityLaw (s : State) : Prop :=
  (s.intake.received ≤ 65535 ∧ s.intake.dropped ≤ 65535 ∧ 1 ≤ s.grader.nextPlate ∧ s.grader.nextPlate ≤ 65535) ∧
  s.intake.queue.length ≤ 64 ∧ s.intake.highWater ≤ 64 ∧ s.production.orders.length ≤ 16 ∧
    s.production.samples.length ≤ 4 ∧ s.planner.rows.length ≤ 18 ∧ s.dispatcher.routing.length ≤ 32 ∧
    s.grader.queue.length ≤ 4 ∧ s.grader.log.length ≤ 64 ∧ s.accounts.reports.length ≤ 4

/-- The flaw map is ordered, its numbers are distinct and in range, it is within its capacity, and no record lies behind
E_closed (R81, R82, R90). -/
def FlawMapLaw (s : State) : Prop :=
  s.map.flaws.length ≤ 768 ∧ s.map.nextNumber ≤ 65535 ∧ (∀ f ∈ s.map.flaws, f.number ≤ 65535 ∧ s.map.eClosed ≤ f.lastRow) ∧
    s.map.flaws.Pairwise (fun f g => f.number ≠ g.number) ∧
    s.map.flaws.Pairwise (fun f g => f.firstRow < g.firstRow ∨ (f.firstRow = g.firstRow ∧ f.number < g.number))

/-- An entry covers at least one row: a detection has a band, and a gap's ends are in order (R36, R45). -/
def Entry.covers : Entry → Prop
  | .detection d => 1 ≤ d.band
  | .gap first last _ => first ≤ last
  | _ => True

/-- The blind spans are ordered, disjoint, non-adjacent, at most eight, each with a cause, and none lies behind E_closed; the
entries and the open flaws that spans are made of cover at least one row (R85, R90). -/
def BlindSpanLaw (s : State) : Prop :=
  (∀ e ∈ s.intake.entries, e.covers) ∧ (∀ x ∈ s.assembler.openFlaws, x.flaw.firstRow ≤ x.flaw.lastRow) ∧
    s.map.spans.length ≤ 8 ∧
    (∀ x ∈ s.map.spans, x.first ≤ x.last ∧ x.last ≤ Config.rcMax ∧ x.causes ≠ 0 ∧ s.map.eClosed ≤ x.last) ∧
    s.map.spans.Pairwise (fun x y => x.last + 1 < y.first)

/-- The plates counted by grade sum to the plates counted by destination class. -/
def Counts.platesAgree (c : Counts) : Prop := c.byGrade.toList.sum = c.byDest.toList.sum

/-- In the running counters and in every report, plates by grade sum to plates by destination class (R171). -/
def PlateCountLaw (s : State) : Prop :=
  s.accounts.counts.platesAgree ∧ ∀ r ∈ s.accounts.reports, r.counts.platesAgree

/-- A switch stands only in RUN or CULL, and asks for the other of the two (R180). -/
def SwitchLaw (s : State) : Prop := ∀ m, s.switch = some m → s.mode ≠ .setup ∧ m ≠ .setup ∧ m ≠ s.mode

/-- Nothing of the ribbon is held: the collections line clear empties are empty (the table of section 11.4). -/
def RibbonEmpty (s : State) : Prop :=
  s.intake.queue = [] ∧ s.intake.inProcess = none ∧ s.assembler.openFlaws = [] ∧ s.map.flaws = [] ∧ s.map.spans = [] ∧
    s.production.samples = [] ∧ (∀ o ∈ s.production.orders, o.inFlight = 0) ∧
    s.planner.state = .idle ∧ s.planner.course = none ∧ s.planner.rows = [] ∧
    s.dispatcher.cuts = [] ∧ s.dispatcher.merged = none ∧ s.dispatcher.aLast = none ∧
    s.travel.deadline = none ∧ s.travel.deadlineRaised = none ∧ s.travel.expiry = none ∧ s.grader.queue = [] ∧
    ∀ c, s.grader.closing = some c → c.cleared = true

/-- In SETUP nothing of the ribbon is held (R38, R56, R89, R94, R111, R135, R152, R155). -/
def SetupLaw (s : State) : Prop := s.mode = .setup → RibbonEmpty s

/-- The configuration items lie in their ranges (the rules the table of R26 names). -/
def ConfigLaw (s : State) : Prop :=
  let c := s.conf
  (1 ≤ c.encoderScale ∧ c.encoderScale ≤ 65535) ∧ (5000 ≤ c.dCut ∧ c.dCut ≤ 120000) ∧
    (500 ≤ c.dCommit ∧ c.dCommit ≤ 20000) ∧ c.tLate ≤ c.cmin ∧ c.clockSelect ≤ 3 ∧ c.staleDistance ≤ 20000 ∧
    c.ku ≤ 255 ∧ c.kd ≤ 255 ∧ c.joinTol ≤ 31 ∧ c.gapTol ≤ 63 ∧ c.netZone.xl ≤ 8191 ∧ c.netZone.xr ≤ 8191 ∧
    (100 ≤ c.cmin ∧ c.cmin ≤ 2000) ∧ (c.cmin ≤ c.cmax ∧ c.cmax ≤ 6000) ∧ c.cullMargin ≤ 100 ∧
    (c.cmin ≤ c.ls ∧ c.ls ≤ 2000) ∧ (4 ≤ c.q ∧ c.q ≤ 16) ∧ c.tDev ≤ 200 ∧
    (∀ i : Fin 12, c.lanes[i].xl ≤ 8191 ∧ c.lanes[i].xr ≤ 8191) ∧ (∀ i : Fin 8, c.dest[i] ≤ 15)

/-- Every order's lengths are at least Cmin (R94, R114). -/
def OrderLengthLaw (s : State) : Prop :=
  ∀ o ∈ s.production.orders, s.conf.cmin ≤ o.lp ∧ ∀ n, o.short = some n → s.conf.cmin ≤ n

/-- The course of a decision keeps lengths of at least Cmin (R120). -/
def CourseLaw (s : State) : Prop :=
  ∀ c, s.planner.course = some (.product c) → s.conf.cmin ≤ c.lp ∧ ∀ n, c.short = some n → s.conf.cmin ≤ n

/-- Each element and the next one satisfy a relation. -/
def linked {α : Type} (r : α → α → Prop) : List α → Prop
  | x :: y :: rest => r x y ∧ linked r (y :: rest)
  | _ => True

/-- The rows are contiguous, each at least Cmin long, the last ending at the plan start, and the first has not left (R118). -/
def RowLaw (s : State) : Prop :=
  linked (fun r t => r.stop = t.start) s.planner.rows ∧ (∀ r ∈ s.planner.rows, r.start + s.conf.cmin ≤ r.stop) ∧
    (∀ r, s.planner.rows.getLast? = some r → r.stop = s.planner.s) ∧
    (∀ r, s.planner.rows.head? = some r → r.left = false)

/-- The cuts' targets strictly increase up to the plan start, ISSUED cuts precede QUEUED ones, and at most two are ISSUED
(R136). -/
def CutLaw (s : State) : Prop :=
  s.dispatcher.cuts.Pairwise (fun c d => c.target < d.target ∧ (d.state = .issued → c.state = .issued)) ∧
    (∀ c ∈ s.dispatcher.cuts, c.target ≤ s.planner.s) ∧ s.dispatcher.issuedCount ≤ 2

/-- The laws of the plan together: the mode, the configuration, the orders, the decision, the rows and the cuts. -/
def PlanLaw (s : State) : Prop :=
  SwitchLaw s ∧ SetupLaw s ∧ ConfigLaw s ∧ OrderLengthLaw s ∧ CourseLaw s ∧ RowLaw s ∧ CutLaw s

end Sys2Proof.Machine
end

