-- ==== Sys2Proof/WellFormed.lean ====
section
/-!
DEFINITION. Which terms of `Instr` are commands: the operands a row may carry. A row that shares its code with others
carries only the arguments that belong to it, and a partial word has fewer than sixteen bits (R17). Everything else a
transfer can hold is legal: a master may send any words, and the part answers them.
-/

namespace Sys2Proof

/-- The arguments that belong to a row which shares its code with others; every argument where a row has its code alone. -/
def Instr.argWf : Instr → Bool
  | .unknownCommand _ code _ _ => !codeDefined code
  | .doneOk _ arg _ => arg != 1
  | .modeRead _ arg _ => arg != 0 && arg != 1 && arg != 2
  | .shiftsRead _ arg _ => arg != 0
  | .patWrite _ arg _ => !arg.getLsbD 7
  | .patRead _ arg _ => arg.getLsbD 7
  | .rcpWriteKind _ arg _ => !rcpReads arg && arg != 8 && arg != 9 && arg != 10
  | .rcpRead _ arg _ => rcpReads arg
  | .rcpArm _ arg _ => arg != 1
  | .sampleRead _ arg _ => arg != 0 && arg != 1
  | .confLaneExtent _ arg _ => confLaneItem arg
  | .confDestination _ arg _ => !confLaneItem arg && !confPlainItem arg
  | .powerOn | .pinReset _ | .internalResetEnd | .encPulse | .tick | .stoppedSet | .timeStep | .deadlineEvent
  | .commit | .heldCommit | .expiry | .entryTake | .backgroundEntryComplete | .detectionEntryComplete
  | .markEntryComplete | .gapEntryComplete | .pieceTake | .cullPieceClose | .platePieceClose | .emptyTransfer _ _
  | .nop _ _ _ | .evt _ _ _ | .mask _ _ _ | .pos _ _ _ | .det _ _ _ | .bkg _ _ _ | .mark _ _ _ | .gap _ _ _
  | .gstat _ _ _ | .take _ _ _ | .doneMissed _ _ | .route _ _ _ | .cstat _ _ _ | .modeRun _ _ | .modeCull _ _
  | .modeSetup _ _ | .confEncoderScale _ _ | .confDCut _ _ | .confDCommit _ _ | .confTLate _ _
  | .confClockSelect _ _ | .confStaleDistance _ _ | .confKu _ _ | .confKd _ _ | .confJ _ _ | .confG _ _
  | .confNetZone _ _ | .confCmin _ _ | .confCmax _ _ | .confCullMargin _ _ | .confLs _ _ | .confQ _ _
  | .confTDev _ _ | .time _ _ _ | .shiftsWrite _ _ | .ordAdd _ _ _ | .ordClose _ _ _ | .ordDrop _ _ _
  | .ordRead _ _ _ | .rcpWriteLimits _ _ | .rcpWritePolicy _ _ | .rcpCopy _ _ | .rcpDisarm _ _ | .sampleRequest _ _
  | .sampleCancel _ _ | .flaw _ _ _ | .plate _ _ _ | .shiftClose _ _ _ | .report _ _ _ | .window _ _ _
  | .restart _ _ _ => true

/-- The transfer a command is made of has a legal partial word; a step no master makes has none. -/
def Instr.tailWf (i : Instr) : Bool :=
  match encode i with
  | some t => t.tail < 16
  | none => true

/-- The term is a command of the table. -/
def WellFormed (i : Instr) : Bool := i.argWf && i.tailWf

end Sys2Proof
end

