-- ==== Sys2Proof/Certificates/Slice0/Obligations.lean ====
section
/-!
DEFINITION. The statements for the provers, in the order of OBLIGATIONS.json.
-/

open Sys2Proof Sys2Proof.Machine

/-! ## The machine -/

/-- O1. A step carries out the command at the front of the queue on the part with the queue's rest. On an empty queue the
part idles, which is the model's choice (log 2). -/
def Obligations.StepRunsTheFrontCommand : Prop :=
  (∀ (c : Instr) (rest : List Instr) (s : State),
      step { s with pending := c :: rest } = exec c { s with pending := rest }) ∧
    ∀ s : State, s.pending = [] → step s = .next s

/-- O2. No well-formed command stops the part: what the manual refuses is answered with a reason, and no rule names anything
that stops it (log 25, DEDUCED). A step of a block whose occasion is absent is a step too, which is the model's choice
(log 3). -/
def Obligations.EveryWellFormedCommandCompletes : Prop :=
  ∀ (c : Instr) (s : State), WellFormed c = true → ∃ t, exec c s = .next t

/-- O3. Power-on and a reset pulse of 2 µs or more give every block its reset values with the internal reset asserted; a
shorter pulse changes nothing; the end of the internal reset leaves the reset values. -/
def Obligations.ResetReturnsEveryBlockToItsStart : Prop :=
  ∀ (s : State) (ns : Nat),
    exec .powerOn s = .next { State.reset with inReset := true, pending := s.pending } ∧
      (2000 ≤ ns → exec (.pinReset ns) s = .next { State.reset with inReset := true, pending := s.pending }) ∧
      (ns < 2000 → exec (.pinReset ns) s = .next s) ∧
      exec .internalResetEnd { State.reset with inReset := true, pending := s.pending } =
        .next { State.reset with pending := s.pending }

/-- O4. The values of R189 after reset. -/
def Obligations.ValuesAfterReset : Prop :=
  let s := State.reset
  s.mode = .setup ∧ s.switch = none ∧ s.inReset = false ∧
    s.travel.p = 0 ∧ s.travel.remainder = 0 ∧ s.conf.clockSelect = 0 ∧ s.travel.seconds = 0 ∧ s.travel.ms = 0 ∧
    s.travel.lastPulse = 2000 ∧ s.travel.stopped = true ∧ s.accounts.counts.lineStops = 0 ∧
    (∀ l : Link, (s.link l).pending.status = 0 ∧ (s.link l).pending.data = [] ∧ (s.link l).flags = 0 ∧
      (s.link l).mask = 0 ∧ s.attention l = false) ∧
    s.map.w = 0 ∧ s.map.eClosed = 0 ∧ s.map.nextNumber = 0 ∧ s.planner.nextRowId = 0 ∧ s.dispatcher.nextSeq = 0 ∧
    s.grader.nextPlate = 1 ∧
    (∀ i : Fin 12, s.refs.t[i] = ⟨32768, 0⟩ ∧ s.refs.r[i] = ⟨32768, 0⟩) ∧
    s.recipes.current = Recipe.default ∧ s.recipes.pending = Recipe.default ∧ s.recipes.generation = 0 ∧
    (∀ i : Fin 8, s.production.patterns[i] = if i = 0 then [⟨150, 3450⟩] else []) ∧
    s.production.orders = [] ∧ s.accounts.reports = [] ∧ s.accounts.shift = 1 ∧
    ∀ i : Fin 4, s.accounts.table[i] = ⟨false, 0⟩

/-- O5. While the internal reset is asserted no block works, and a transfer only reads zeros. -/
def Obligations.NothingHappensWhileResetIsAsserted : Prop :=
  ∀ s : State, s.inReset = true →
    (∀ c ∈ [Instr.encPulse, .tick, .stoppedSet, .timeStep, .deadlineEvent, .commit, .heldCommit, .expiry, .entryTake,
        .backgroundEntryComplete, .detectionEntryComplete, .markEntryComplete, .gapEntryComplete, .pieceTake,
        .cullPieceClose, .platePieceClose], exec c s = .next s) ∧
      ∀ (i : Instr) (tr : Transfer), WellFormed i = true → encode i = some tr →
        exec i s =
          .next (s.setLink tr.link { s.link tr.link with shifted := List.replicate tr.words.length 0 })

/-! ## Travel and time -/

/-- O6. A pulse counts travel, clears the stopped flag, and raises the compares whose positions P has reached. -/
def Obligations.PulseCountsTravelAndRaisesCompares : Prop :=
  ∀ s : State, Working s →
    ∃ t, exec .encPulse s = .next t ∧
      (let sum := s.travel.remainder + s.conf.encoderScale;
        (s.travel.p + sum / 1000 ≤ 4294967295 →
            t.travel.p = s.travel.p + sum / 1000 ∧ t.travel.remainder = sum - 1000 * (sum / 1000)) ∧
          (4294967295 < s.travel.p + sum / 1000 → t.travel.p = 4294967295 ∧ t.travel.remainder = 999)) ∧
      t.travel.lastPulse = 0 ∧ t.travel.stopped = false ∧
      (∀ d, s.travel.deadline = some d →
        (d + s.conf.dCut - s.conf.dCommit ≤ t.travel.p →
            t.travel.deadline = none ∧ t.travel.deadlineRaised = some d) ∧
          (t.travel.p < d + s.conf.dCut - s.conf.dCommit →
            t.travel.deadline = some d ∧ t.travel.deadlineRaised = s.travel.deadlineRaised)) ∧
      (s.travel.deadline = none → t.travel.deadline = none ∧ t.travel.deadlineRaised = s.travel.deadlineRaised) ∧
      (∀ w, s.travel.expiry = some w →
        (w.target + s.conf.dCut + s.conf.tLate < t.travel.p →
            t.travel.expiry = none ∧ t.travel.expiryRaised = s.travel.expiryRaised ++ [w.seq]) ∧
          (t.travel.p ≤ w.target + s.conf.dCut + s.conf.tLate →
            t.travel.expiry = some w ∧ t.travel.expiryRaised = s.travel.expiryRaised)) ∧
      (s.travel.expiry = none → t.travel.expiry = none ∧ t.travel.expiryRaised = s.travel.expiryRaised) ∧
      t.travel.seconds = s.travel.seconds ∧ t.travel.ms = s.travel.ms ∧
      { t with travel := s.travel, links := s.links } = s

/-- O7. A pulse that changes P outside SETUP raises STALE when it is armed and P − W exceeds the stale distance, and then
disarms it; otherwise no link changes. -/
def Obligations.PulseRaisesStaleOncePerFall : Prop :=
  ∀ s t : State, Working s → exec .encPulse s = .next t →
    let falls := s.mode ≠ .setup ∧ t.travel.p ≠ s.travel.p ∧ s.links.staleArmed = true ∧ s.conf.staleDistance ≠ 0 ∧
      s.conf.staleDistance < t.travel.p - s.map.w
    (falls →
        t.links =
          { s.links with
            staleArmed := false
            gantry := { s.links.gantry with flags := s.links.gantry.flags ||| 2 } }) ∧
      (¬falls → t.links = s.links)

/-- O8. A tick counts milliseconds and the time without a pulse; a line that has gone 2,000 ticks without one is flagged
stopped and counted as a line stop. That a tick at 999 makes the step of the time of day due, and a tick below it leaves none
due, is how the model holds R13 (log 4, DEDUCED). -/
def Obligations.TicksCountTimeAndStopTheLine : Prop :=
  (∀ s : State, Working s →
      (s.travel.ms < 999 →
          exec .tick s =
            .next
              { s with
                travel :=
                  { s.travel with lastPulse := min 2000 (s.travel.lastPulse + 1), ms := s.travel.ms + 1, stepDue := false } }) ∧
        (999 ≤ s.travel.ms →
          exec .tick s =
            .next
              { s with
                travel := { s.travel with lastPulse := min 2000 (s.travel.lastPulse + 1), ms := 0, stepDue := true } })) ∧
    ∀ s : State, s.inReset = false → s.travel.lastPulse = 2000 → s.travel.stopped = false →
      exec .stoppedSet s =
        .next
          { s with
            travel := { s.travel with stopped := true }
            accounts :=
              { s.accounts with
                counts :=
                  { s.accounts.counts with
                    lineStops :=
                      if s.accounts.counts.lineStops < 65535 then s.accounts.counts.lineStops + 1
                      else s.accounts.counts.lineStops } } }

/-- O9. A step of the time of day counts its second by the stopped flag, and closes the shift when the new second is the
start of an enabled entry; a shift close freezes the running counters into report 0, zeroes them, advances the shift number
and raises SHIFT. -/
def Obligations.TimeStepsCountSecondsAndCloseShifts : Prop :=
  (∀ s : State, s.inReset = false → s.travel.stepDue = true →
      let second := if s.travel.seconds + 1 < 86400 then s.travel.seconds + 1 else 0
      let counts := s.accounts.counts
      let counted : State :=
        { s with
          travel := { s.travel with seconds := second, stepDue := false }
          accounts :=
            { s.accounts with
              counts :=
                if s.travel.stopped then
                  { counts with stoppedSeconds := min 4294967295 (counts.stoppedSeconds + 1) }
                else { counts with runSeconds := min 4294967295 (counts.runSeconds + 1) } } }
      ((∀ i : Fin 4, s.accounts.table[i].enabled = true → s.accounts.table[i].start ≠ second) →
          exec .timeStep s = .next counted) ∧
        ∀ i : Fin 4, s.accounts.table[i].enabled = true → s.accounts.table[i].start = second →
          (∀ j : Fin 4, j < i → s.accounts.table[j].enabled = true → s.accounts.table[j].start ≠ second) →
          exec .timeStep s = .next (closeShift second i counted)) ∧
    ∀ (s : State) (time cause : Nat),
      let c := s.accounts.counts
      let yield := if c.totalArea = 0 then 0 else min 1000 (c.productArea * 1000 / c.totalArea)
      closeShift time cause s =
        { s with
          accounts :=
            { s.accounts with
              counts := Counts.zero
              productRem := 0
              totalRem := 0
              shift := if s.accounts.shift < 65535 then s.accounts.shift + 1 else 1
              reports := (⟨s.accounts.shift, time, cause, c, yield⟩ :: s.accounts.reports).take 4 }
          links := { s.links with supervisor := { s.links.supervisor with flags := s.links.supervisor.flags ||| 4 } } }

/-! ## The links -/

/-- O10. A transfer without a complete word takes no command; an undefined code is answered UNKNOWN; NOP changes nothing,
and is refused SHORT when its words do not all come; the bits after the last complete word have no effect. The words shifted
out, which stand in the part, are the model's own (log 7). -/
def Obligations.TransfersThatChangeNoBlock : Prop :=
  (∀ (s : State) (l : Link), Working s →
      (∀ tail, exec (.emptyTransfer l tail) s = .next (s.setLink l { s.link l with shifted := [] })) ∧
        (∀ (code arg : Byte) (b : Body), codeDefined code = false →
          exec (.unknownCommand l code arg b) s = .next (transferred l b code ⟨.unknown, .none, []⟩ s)) ∧
        (∀ (arg : Byte) (b : Body), arg.toNat ≤ b.data.length →
          exec (.nop l arg b) s = .next (transferred l b 0x00 (Reply.done []) s)) ∧
        ∀ (arg : Byte) (b : Body), b.data.length < arg.toNat →
          exec (.nop l arg b) s = .next (refusedFor l b 0x00 .short s)) ∧
    ∀ (s : State) (l : Link) (words : List Word) (tail tail' : Nat),
      exec (decodeTransfer l words tail) s = exec (decodeTransfer l words tail') s

/-- O11. EVT returns the flags of its link and clears them. MASK stores the bits that name an event on its link, replies
CLAMPED when it discarded one, and sets the level flags whose mask bit rises with their condition true. The conditions are
READY, that a QUEUED cut exists; ROUTE, that the routing list is not empty; and STARVED, that the mode is RUN and no OPEN
order has need. The attention output of a link is asserted exactly while a flag of it is set with its mask bit set and the
internal reset is not asserted. -/
def Obligations.EvtAndMaskActOnTheirLink : Prop :=
  (∀ s : State,
      (∀ l : Link, s.attention l = true ↔ s.inReset = false ∧ (s.link l).flags &&& (s.link l).mask ≠ 0) ∧
        (s.ready = true ↔ ∃ c ∈ s.dispatcher.cuts, c.state = .queued) ∧
        (s.routeWaiting = true ↔ s.dispatcher.routing ≠ []) ∧
        (s.starved = true ↔
          s.mode = .run ∧
            ∀ o ∈ s.production.orders, ¬(o.state = .opened ∧ 0 < o.wanted - o.delivered - o.inFlight))) ∧
    (∀ (s : State) (l : Link) (arg : Byte) (b : Body), Working s →
      exec (.evt l arg b) s =
        .next
          (transferred l b 0x01 (Reply.done [(s.link l).flags.setWidth 16])
            (s.setLink l { s.link l with flags := 0 }))) ∧
    ∀ (s : State) (l : Link) (arg : Byte) (w : Word) (rest : List Word) (tail : Nat), Working s →
      let defined : BitVec 8 := match l with
        | .gantry => 0x8F
        | .cutter => 0x9F
        | .supervisor => 0xFF
      let mask := w.extractLsb' 0 8 &&& defined
      let conditions : BitVec 8 := match l with
        | .gantry => 0
        | .cutter => (if s.ready then 1 else 0) ||| (if s.routeWaiting then 8 else 0)
        | .supervisor => if s.starved then 2 else 0
      exec (.mask l arg ⟨w :: rest, tail⟩) s =
        .next
          (transferred l ⟨w :: rest, tail⟩ 0x02
            (if w = mask.setWidth 16 then Reply.done [mask.setWidth 16] else Reply.adjusted .clamped [mask.setWidth 16])
            (s.setLink l
              { s.link l with
                mask := mask
                flags := (s.link l).flags ||| (conditions &&& mask &&& ~~~(s.link l).mask) }))

/-- O12. POS reports P, the remainder, W, the mode and the stopped flag on every link. -/
def Obligations.PosReportsTravel : Prop :=
  ∀ (s : State) (l : Link) (arg : Byte) (b : Body), Working s → s.travel.p ≤ 4294967295 → s.map.w ≤ 4294967295 →
    exec (.pos l arg b) s =
      .next
        (transferred l b 0x03
          (Reply.done
            [BitVec.ofNat 16 (s.travel.p / 65536), BitVec.ofNat 16 s.travel.p, BitVec.ofNat 16 s.travel.remainder,
              BitVec.ofNat 16 (s.map.w / 65536), BitVec.ofNat 16 s.map.w,
              (match s.mode with
                | .setup => 0
                | .run => 1
                | .cull => 2),
              (if s.travel.stopped then 1 else 0)])
          s)

/-- O13. A transfer shifts out the response that was pending, from its status word, with zeros after it. -/
def Obligations.TransferShiftsOutThePendingResponse : Prop :=
  ∀ (s : State) (i : Instr) (tr : Transfer), s.inReset = false → WellFormed i = true → encode i = some tr →
    ∃ t, exec i s = .next t ∧
      (t.link tr.link).shifted =
        (((s.link tr.link).pending.status :: (s.link tr.link).pending.data) ++
          List.replicate tr.words.length 0).take tr.words.length

/-- O14. A command on a link it does not belong to is refused LINK and reaches no block. -/
def Obligations.WrongLinkReachesNoBlock : Prop :=
  ∀ (s : State) (l owner : Link) (w : Word) (data : List Word) (tail : Nat), Working s →
    ownerOfCode (w.extractLsb' 8 8) = some owner → owner ≠ l →
    exec (decodeTransfer l (w :: data) tail) s = .next (refusedFor l ⟨data, tail⟩ (w.extractLsb' 8 8) .link s)

/-- O15. What a mode refuses: gantry input and SAMPLE in SETUP, and every CONF item but the destination codes outside SETUP.
A CONF argument that names no item is refused RANGE in every mode. -/
def Obligations.ModesRefuseTheirCommands : Prop :=
  ∀ (s : State) (l : Link) (w : Word) (data : List Word) (tail : Nat), Working s →
    let code := w.extractLsb' 8 8
    let arg := w.extractLsb' 0 8
    ownerOfCode code = some l →
      (refusedInSetup code = true → s.mode = .setup →
          exec (decodeTransfer l (w :: data) tail) s = .next (refusedFor l ⟨data, tail⟩ code .mode s)) ∧
        (code = 0x31 → arg.toNat ≤ 0x10 ∨ (0x20 ≤ arg.toNat ∧ arg.toNat ≤ 0x2B) → s.mode ≠ .setup →
          exec (decodeTransfer l (w :: data) tail) s = .next (refusedFor l ⟨data, tail⟩ code .mode s)) ∧
        (code = 0x31 →
          (0x11 ≤ arg.toNat ∧ arg.toNat ≤ 0x1F) ∨ (0x2C ≤ arg.toNat ∧ arg.toNat ≤ 0x2F) ∨ 0x38 ≤ arg.toNat →
          exec (decodeTransfer l (w :: data) tail) s = .next (refusedFor l ⟨data, tail⟩ code .range s))

/-- O16. A transfer that ends before the command's fixed data words is refused SHORT and changes nothing: commands whose
count their code and argument give, the CONF items in the modes that accept them, and a PAT write, whose count its k gives.
That SHORT comes before RANGE, and the words of a PAT write before its other checks, is the model's reading of R18 (log 14,
DEDUCED). -/
def Obligations.ShortTransfersAreRefused : Prop :=
  ∀ (s : State) (l : Link) (w : Word) (data : List Word) (tail : Nat), Working s →
    let code := w.extractLsb' 8 8
    let arg := w.extractLsb' 0 8
    let short := exec (decodeTransfer l (w :: data) tail) s = .next (refusedFor l ⟨data, tail⟩ code .short s)
    (ownerOfCode code = some l ∨ ownerOfCode code = none → (refusedInSetup code = true → s.mode ≠ .setup) →
        data.length < fixedWordsOf code arg → short) ∧
      (l = .supervisor → code = 0x31 →
        (s.mode = .setup ∧ (arg.toNat ≤ 0x10 ∨ (0x20 ≤ arg.toNat ∧ arg.toNat ≤ 0x2B))) ∨
          (0x30 ≤ arg.toNat ∧ arg.toNat ≤ 0x37) →
        data.length < (if arg = 0x01 ∨ arg = 0x0A ∨ (0x20 ≤ arg.toNat ∧ arg.toNat ≤ 0x2B) then 2 else 1) → short) ∧
      (l = .supervisor → code = 0x34 → arg.getLsbD 7 = false → data.length < 1 + 2 * valueAt data 0 → short)

/-- O17. The words of every well-formed link command decode to that command. The rows to which an undefined argument belongs are
the model's reading (log 13, DEDUCED). -/
def Obligations.DecodeOfEncodeIsTheCommand : Prop :=
  ∀ (i : Instr) (tr : Transfer), WellFormed i = true → encode i = some tr →
    decodeTransfer tr.link tr.words tr.tail = i

/-! ## Configuration -/

/-- O18. CONF: what each item's write stores and replies in SETUP when its value is in range, and RANGE, with no change, when it
is not; a destination code is written in every mode. -/
def Obligations.ConfWritesItsItemInSetup : Prop :=
  ∀ (s : State) (b : Body), Working s →
    let n := valueAt b.data 0
    let m := value32At b.data 0
    let a : Across := ⟨valueAt b.data 0, valueAt b.data 1⟩
    let c := s.conf
    let outcome := fun (i : Instr) (ok : Prop) (words : List Word) (t : State) =>
      (ok → exec i s = .next (transferred .supervisor b 0x31 (Reply.done words) t)) ∧
        (¬ok → exec i s = .next (refusedFor .supervisor b 0x31 .range s))
    let cminOk := 100 ≤ n ∧ n ≤ 2000 ∧ n ≤ c.cmax ∧ n ≤ c.ls ∧ c.tLate ≤ n ∧
      ∀ o ∈ s.production.orders, n ≤ o.lp ∧ ∀ l, o.short = some l → n ≤ l
    (s.mode = .setup → 1 ≤ b.data.length →
        outcome (.confEncoderScale .supervisor b) (1 ≤ n) [word n] { s with conf := { c with encoderScale := n } } ∧
          outcome (.confDCommit .supervisor b) (500 ≤ n ∧ n ≤ 20000) [word n] { s with conf := { c with dCommit := n } } ∧
          outcome (.confTLate .supervisor b) (n ≤ c.cmin) [word n] { s with conf := { c with tLate := n } } ∧
          outcome (.confClockSelect .supervisor b) (n ≤ 3) [word n] { s with conf := { c with clockSelect := n } } ∧
          outcome (.confStaleDistance .supervisor b) (n ≤ 20000) [word n]
            { s with conf := { c with staleDistance := n } } ∧
          outcome (.confKu .supervisor b) (n ≤ 255) [word n] { s with conf := { c with ku := n } } ∧
          outcome (.confKd .supervisor b) (n ≤ 255) [word n] { s with conf := { c with kd := n } } ∧
          outcome (.confJ .supervisor b) (n ≤ 31) [word n] { s with conf := { c with joinTol := n } } ∧
          outcome (.confG .supervisor b) (n ≤ 63) [word n] { s with conf := { c with gapTol := n } } ∧
          outcome (.confCmin .supervisor b) cminOk [word n] { s with conf := { c with cmin := n } } ∧
          outcome (.confCmax .supervisor b) (c.cmin ≤ n ∧ n ≤ 6000) [word n] { s with conf := { c with cmax := n } } ∧
          outcome (.confCullMargin .supervisor b) (n ≤ 100) [word n] { s with conf := { c with cullMargin := n } } ∧
          outcome (.confLs .supervisor b) (c.cmin ≤ n ∧ n ≤ 2000) [word n] { s with conf := { c with ls := n } } ∧
          outcome (.confQ .supervisor b) (4 ≤ n ∧ n ≤ 16) [word n] { s with conf := { c with q := n } } ∧
          outcome (.confTDev .supervisor b) (n ≤ 200) [word n] { s with conf := { c with tDev := n } }) ∧
      (s.mode = .setup → 2 ≤ b.data.length →
        outcome (.confDCut .supervisor b) (5000 ≤ m ∧ m ≤ 120000) (words32 m) { s with conf := { c with dCut := m } } ∧
          outcome (.confNetZone .supervisor b) (a.xl ≤ 8191 ∧ a.xr ≤ 8191) [word a.xl, word a.xr]
            { s with conf := { c with netZone := a } } ∧
          ∀ (lane : Fin 12) (arg : Byte), arg.toNat = 0x20 + lane →
            outcome (.confLaneExtent .supervisor arg b) (a.xl ≤ 8191 ∧ a.xr ≤ 8191) [word a.xl, word a.xr]
              { s with
                conf := { c with lanes := c.lanes.set lane a }
                refs :=
                  if c.lanes[lane] = a then s.refs
                  else
                    { t := s.refs.t.set lane { s.refs.t[lane] with settle := 0 }
                      r := s.refs.r.set lane { s.refs.r[lane] with settle := 0 } } }) ∧
      (1 ≤ b.data.length →
        ∀ (item : Fin 8) (arg : Byte), arg.toNat = 0x30 + item →
          outcome (.confDestination .supervisor arg b) (n ≤ 15) [word n]
            { s with conf := { c with dest := c.dest.set item n } })

/-! ## Intake -/

/-- O19. DET: refused RANGE for 0 or more than 12 records, and otherwise its records, five words each in the layout of
section 2.8, are examined in order. A record is sound when its lane exists and holds its x_start; the sound records join
the tail in order, each with its row held to P, as far as the queue has room, and each one after that is dropped with an
INTAKE span; the result is PARTIAL when fewer records than asked for were entered, else CLAMPED when one was clamped. -/
def Obligations.DetEntersItsRecords : Prop :=
  (∀ (n : Nat) (ws : List Word),
      (detectionRecords n ws).length = min n (ws.length / 5) ∧
        ∀ i, i < min n (ws.length / 5) →
          (detectionRecords n ws)[i]? =
            some
              (rawDetection (ws.getD (5 * i) 0) (ws.getD (5 * i + 1) 0) (ws.getD (5 * i + 2) 0) (ws.getD (5 * i + 3) 0)
                (ws.getD (5 * i + 4) 0))) ∧
    (∀ w0 w1 w2 w3 w4 : Word,
      rawDetection w0 w1 w2 w3 w4 =
        { row := w0.toNat * 65536 + w1.toNat
          xStart := w2.toNat % 8192
          channel := if w2.toNat / 8192 % 2 = 1 then .r else .t
          width := w3.toNat % 256
          lane := w3.toNat / 256 % 16
          kind := match w3.toNat / 4096 % 8 with
            | 0 => .bubble
            | 1 => .stone
            | 2 => .tinSpot
            | 3 => .scratch
            | 4 => .distortion
            | 5 => .edgeChip
            | 6 => .stain
            | _ => .unknown
          peak := w4.toNat % 4096
          band := if w4.toNat / 4096 = 0 then 16 else w4.toNat / 4096 }) ∧
    (∀ (lanes : Vector Across 12) (r : RawDetection) (lane : Fin 12),
      wellFormedLane lanes r = some lane ↔
        r.lane = lane.val ∧ lanes[lane].xl ≤ r.xStart ∧ r.xStart < lanes[lane].xr) ∧
    ∀ (s : State) (arg : Byte) (b : Body), Working s → s.mode ≠ .setup → 5 ≤ b.data.length →
      s.intake.received ≤ 65535 →
      let n := arg.toNat
      let p := s.travel.p
      let records := detectionRecords n b.data
      let sound : List (Detection × Bool) := records.filterMap fun r =>
        (wellFormedLane s.conf.lanes r).map fun lane =>
          (⟨min r.row p, r.xStart, r.width, r.band, lane, r.channel, r.kind, r.peak⟩, decide (p < r.row))
      let room := 64 - s.intake.queue.length
      let entered := sound.take room
      let dropped := sound.drop room
      let lost := records.length - entered.length
      let saturated := fun k : Nat => max k (min 65535 (k + lost))
      let reply :=
        if entered.length < n then Reply.adjusted .partly [word entered.length]
        else if entered.any Prod.snd then Reply.adjusted .clamped [word entered.length]
        else Reply.done [word entered.length]
      let counted : State :=
        { s with
          intake :=
            { s.intake with
              queue := s.intake.queue ++ entered.map fun x => .detection x.1
              received := (s.intake.received + records.length) % 65536
              dropped := saturated s.intake.dropped
              highWater :=
                if entered = [] then s.intake.highWater
                else max s.intake.highWater (s.intake.queue.length + entered.length)
              overflow := s.intake.overflow || !dropped.isEmpty }
          accounts :=
            { s.accounts with
              counts := { s.accounts.counts with intakeDrops := saturated s.accounts.counts.intakeDrops } }
          links :=
            if dropped = [] then s.links
            else { s.links with gantry := { s.links.gantry with flags := s.links.gantry.flags ||| 1 } } }
      (n = 0 ∨ 12 < n → exec (.det .gantry arg b) s = .next (refusedFor .gantry b 0x10 .range s)) ∧
        (1 ≤ n → n ≤ 12 →
          exec (.det .gantry arg b) s =
            .next
              (transferred .gantry b 0x10 reply
                (dropped.foldl (fun t x => addSpan x.1.row (x.1.row + x.1.band - 1) .intake t) counted)))

/-- O20. What becomes of the one record of a DET with argument 1: entered, entered with its row clamped to P, discarded as
malformed, or dropped for a full queue with an INTAKE span. The record is read from its five words in the layout of section
2.8. -/
def Obligations.DetRecordOutcomes : Prop :=
  ∀ (s : State) (w0 w1 w2 w3 w4 : Word) (rest : List Word) (tail : Nat), Working s → s.mode ≠ .setup →
    let b : Body := ⟨w0 :: w1 :: w2 :: w3 :: w4 :: rest, tail⟩
    let r : RawDetection :=
      { row := w0.toNat * 65536 + w1.toNat
        xStart := w2.toNat % 8192
        channel := if w2.toNat / 8192 % 2 = 1 then .r else .t
        width := w3.toNat % 256
        lane := w3.toNat / 256 % 16
        kind := match w3.toNat / 4096 % 8 with
          | 0 => .bubble
          | 1 => .stone
          | 2 => .tinSpot
          | 3 => .scratch
          | 4 => .distortion
          | 5 => .edgeChip
          | 6 => .stain
          | _ => .unknown
        peak := w4.toNat % 4096
        band := if w4.toNat / 4096 = 0 then 16 else w4.toNat / 4096 }
    let p := s.travel.p
    let received := if s.intake.received < 65535 then s.intake.received + 1 else 0
    let dropped := if s.intake.dropped < 65535 then s.intake.dropped + 1 else s.intake.dropped
    let drops := s.accounts.counts.intakeDrops
    let accounts := { s.accounts with
      counts := { s.accounts.counts with intakeDrops := if drops < 65535 then drops + 1 else drops } }
    (∀ lane : Fin 12, r.lane = lane.val → s.conf.lanes[lane].xl ≤ r.xStart → r.xStart < s.conf.lanes[lane].xr →
        let d : Detection := ⟨min r.row p, r.xStart, r.width, r.band, lane, r.channel, r.kind, r.peak⟩
        (s.intake.queue.length < 64 →
            exec (.det .gantry 1 b) s =
              .next
                (transferred .gantry b 0x10
                  (if p < r.row then Reply.adjusted .clamped [1] else Reply.done [1])
                  { s with
                    intake :=
                      { s.intake with
                        queue := s.intake.queue ++ [.detection d]
                        received := received
                        highWater := max s.intake.highWater (s.intake.queue.length + 1) } })) ∧
          (64 ≤ s.intake.queue.length →
            exec (.det .gantry 1 b) s =
              .next
                (transferred .gantry b 0x10 (Reply.adjusted .partly [0])
                  (addSpan d.row (d.row + d.band - 1) .intake
                    { s with
                      intake := { s.intake with received := received, dropped := dropped, overflow := true }
                      accounts := accounts
                      links :=
                        { s.links with gantry := { s.links.gantry with flags := s.links.gantry.flags ||| 1 } } })))) ∧
      ((12 ≤ r.lane ∨
          ∃ lane : Fin 12, r.lane = lane.val ∧
            (r.xStart < s.conf.lanes[lane].xl ∨ s.conf.lanes[lane].xr ≤ r.xStart)) →
        exec (.det .gantry 1 b) s =
          .next
            (transferred .gantry b 0x10 (Reply.adjusted .partly [0])
              { s with
                intake := { s.intake with received := received, dropped := dropped }
                accounts := accounts }))

/-- O21. BKG: refused RANGE for 0 or more than 16 samples, and otherwise its samples are taken in order. The samples whose
lane exists join the tail in order, each with its lane, channel and level, as far as the queue has room; each one after that
is dropped without a blind span; the result is PARTIAL when fewer samples than asked for were entered. -/
def Obligations.BkgEntersItsSamples : Prop :=
  (∀ (n : Nat) (ws : List Word),
      (sampleRecords n ws).length = min n (ws.length / 2) ∧
        ∀ i, i < min n (ws.length / 2) →
          (sampleRecords n ws)[i]? = some (rawSample (ws.getD (2 * i) 0) (ws.getD (2 * i + 1) 0))) ∧
    (∀ w0 w1 : Word,
      rawSample w0 w1 =
        { level := w0.toNat % 4096
          lane := w1.toNat % 16
          channel := if w1.toNat / 16 % 2 = 1 then .r else .t }) ∧
    (∀ (n : Nat) (lane : Fin 12), laneOf n = some lane ↔ n = lane.val) ∧
    ∀ (s : State) (arg : Byte) (b : Body), Working s → s.mode ≠ .setup → 2 ≤ b.data.length →
      s.intake.received ≤ 65535 →
      let n := arg.toNat
      let samples := sampleRecords n b.data
      let sound : List Entry :=
        samples.filterMap fun r => (laneOf r.lane).map fun lane => .background lane r.channel r.level
      let room := 64 - s.intake.queue.length
      let entered := sound.take room
      let dropped := sound.drop room
      let lost := samples.length - entered.length
      let saturated := fun k : Nat => max k (min 65535 (k + lost))
      (n = 0 ∨ 16 < n → exec (.bkg .gantry arg b) s = .next (refusedFor .gantry b 0x11 .range s)) ∧
        (1 ≤ n → n ≤ 16 →
          exec (.bkg .gantry arg b) s =
            .next
              (transferred .gantry b 0x11
                (if entered.length < n then Reply.adjusted .partly [word entered.length]
                  else Reply.done [word entered.length])
                { s with
                  intake :=
                    { s.intake with
                      queue := s.intake.queue ++ entered
                      received := (s.intake.received + samples.length) % 65536
                      dropped := saturated s.intake.dropped
                      highWater :=
                        if entered = [] then s.intake.highWater
                        else max s.intake.highWater (s.intake.queue.length + entered.length)
                      overflow := s.intake.overflow || !dropped.isEmpty }
                  accounts :=
                    { s.accounts with
                      counts := { s.accounts.counts with intakeDrops := saturated s.accounts.counts.intakeDrops } }
                  links :=
                    if dropped = [] then s.links
                    else { s.links with gantry := { s.links.gantry with flags := s.links.gantry.flags ||| 1 } } }))

/-- O22. MARK and GAP: refused FULL when 64 entries wait, GAP refused RANGE for an undefined cause or ends out of order, and
otherwise queued, a MARK clamped to P, with the result judged against W and P. -/
def Obligations.MarkAndGapAreQueued : Prop :=
  ∀ (s : State) (arg : Byte) (b : Body), Working s → s.mode ≠ .setup →
    let p := value32At b.data 0
    let last := value32At b.data 2
    let queued := fun e : Entry =>
      { s with
        intake :=
          { s.intake with
            queue := s.intake.queue ++ [e]
            received := if s.intake.received < 65535 then s.intake.received + 1 else 0
            highWater := max s.intake.highWater (s.intake.queue.length + 1) } }
    (2 ≤ b.data.length → 64 ≤ s.intake.queue.length →
        exec (.mark .gantry arg b) s = .next (refusedFor .gantry b 0x12 .full s)) ∧
      (2 ≤ b.data.length → s.intake.queue.length < 64 →
        exec (.mark .gantry arg b) s =
          .next
            (transferred .gantry b 0x12
              (if min p s.travel.p ≤ s.map.w then Reply.adjusted .held []
                else if s.travel.p < p then Reply.adjusted .clamped []
                else Reply.done [])
              (queued (.mark (min p s.travel.p))))) ∧
      (4 ≤ b.data.length → arg.toNat = 0 ∨ 3 < arg.toNat ∨ last < p →
        exec (.gap .gantry arg b) s = .next (refusedFor .gantry b 0x13 .range s)) ∧
      ∀ cause : GapCause,
        arg = (match cause with
          | .camera => 1
          | .light => 2
          | .operator => 3) →
        4 ≤ b.data.length → p ≤ last →
        (64 ≤ s.intake.queue.length →
            exec (.gap .gantry arg b) s = .next (refusedFor .gantry b 0x13 .full s)) ∧
          (s.intake.queue.length < 64 →
            exec (.gap .gantry arg b) s =
              .next
                (transferred .gantry b 0x13
                  (if min last s.travel.p ≤ s.map.w then Reply.adjusted .held [] else Reply.done [])
                  (queued (.gap p last cause))))

/-- O23. GSTAT returns the intake's status, and then clears overflow-since-read and sets the high-water mark to the depth. -/
def Obligations.GstatReadsTheIntake : Prop :=
  ∀ (s : State) (arg : Byte) (b : Body), Working s →
    exec (.gstat .gantry arg b) s =
      .next
        (transferred .gantry b 0x14
          (Reply.done
            ([word s.intake.queue.length,
                (match s.intake.inProcess with
                  | none => 0
                  | some (.detection _) => 1
                  | some (.background _ _ _) => 2
                  | some (.mark _) => 3
                  | some (.gap _ _ _) => 4),
                word s.intake.highWater, word s.intake.received, word s.intake.dropped,
                if s.intake.overflow then 1 else 0] ++
              words32 s.map.w ++ [word s.refs.settledCount]))
          { s with intake := { s.intake with overflow := false, highWater := s.intake.queue.length } })

/-! ## The assembler -/

/-- O24. The idle assembler takes the oldest entry, in a step of its own, which is the model's choice (log 28); a
BACKGROUND entry moves the reference of its lane and channel by the gain of its direction, at least one step, and
advances its settle count; and the contrast index of a peak against a reference. -/
def Obligations.SamplesShapeTheReferenceOfContrast : Prop :=
  (∀ s : State, Working s →
      (∀ (e : Entry) (rest : List Entry), s.intake.inProcess = none → s.intake.queue = e :: rest →
          exec .entryTake s = .next { s with intake := { s.intake with queue := rest, inProcess := some e } }) ∧
        ∀ (lane : Fin 12) (channel : Channel) (level : Nat),
          s.intake.inProcess = some (.background lane channel level) → level ≤ 4095 →
          let x := s.refs.get lane channel
          x.level ≤ 65520 →
          let moved :=
            if x.level < 16 * level then
              if s.conf.ku = 0 then x.level else min 65520 (x.level + max 1 ((16 * level - x.level) * s.conf.ku / 256))
            else if 16 * level < x.level then
              if s.conf.kd = 0 then x.level else x.level - max 1 ((x.level - 16 * level) * s.conf.kd / 256)
            else x.level
          exec .backgroundEntryComplete s =
            .next
              { s with
                intake := { s.intake with inProcess := none }
                refs := s.refs.set lane channel ⟨moved, min 8 (x.settle + 1)⟩ }) ∧
    ∀ (x : Reference) (peak : Nat),
      contrastOf x peak =
        if x.settle = 8 then
          min 255 (((16 * peak : Int) - (x.level : Int)).natAbs * 64 / max x.level 256)
        else 255

/-- O25. A DETECTION entry completes: the join test; a late one behind E_closed is discarded, and any other late one is
counted and raises LATE. The detection opens a flaw in the lowest free slot when it matches none, joins the flaw it matches
when it matches one, and makes one flaw of all it matches when it matches several; a late one marks the flaw that then holds
it, which is closed at once when the watermark has passed it. (The full table is O26, the closing sequence O27.) Among
matched flaws with the highest contrast and equal kind stamps the kind is the model's choice (log 23) and is not stated. -/
def Obligations.DetectionOpensOrJoinsAFlaw : Prop :=
  ∀ (s : State) (d : Detection), Working s → s.intake.inProcess = some (.detection d) →
    let reference := s.refs.get d.lane d.channel
    let contrast := contrastOf reference d.peak
    let unsettled := reference.settle != 8
    let number := if s.assembler.assembly < 4294967295 then s.assembler.assembly + 1 else 0
    let matching := s.assembler.openFlaws.filter fun x => joinTest s.conf d x.flaw
    let last := d.row + d.band - 1
    let late := decide (d.row < s.map.w)
    let begun := detectionBegun s late
    let dropped := s.accounts.counts.lateDropped
    (∀ f : OpenFlaw,
        joinTest s.conf d f = true ↔
          d.row ≤ f.lastRow + s.conf.gapTol ∧ f.firstRow ≤ last + s.conf.gapTol ∧ d.xStart ≤ f.xMax + s.conf.joinTol ∧
            f.xMin ≤ d.xStart + d.width + s.conf.joinTol) ∧
      (late = true → last < s.map.eClosed →
        exec .detectionEntryComplete s =
          .next
            { s with
              intake := { s.intake with inProcess := none }
              accounts :=
                { s.accounts with
                  counts :=
                    { s.accounts.counts with lateDropped := if dropped < 65535 then dropped + 1 else dropped } }
              links := { s.links with gantry := { s.links.gantry with flags := s.links.gantry.flags ||| 8 } } }) ∧
      ((late = true → s.map.eClosed ≤ last) →
        (matching = [] → ∀ i : Fin 32, s.assembler.slots[i] = none →
            (∀ j : Fin 32, j < i → s.assembler.slots[j] ≠ none) →
            let f : OpenFlaw :=
              { firstRow := d.row
                lastRow := last
                xMin := d.xStart
                xMax := d.xStart + d.width
                contrast := contrast
                kind := d.kind
                stamp := s.assembler.assembly
                area := min 65535 (d.width * d.band)
                seenT := d.channel == .t
                seenR := d.channel == .r
                late := late
                unsettled := unsettled }
            exec .detectionEntryComplete s =
              .next
                (closedIfPassed late i f
                  { begun with assembler := ⟨s.assembler.slots.set i (some f), number⟩ })) ∧
          (∀ x : Slotted, matching = [x] →
            let g := x.flaw
            let higher := g.contrast < contrast
            let f : OpenFlaw :=
              { firstRow := min g.firstRow d.row
                lastRow := max g.lastRow last
                xMin := min g.xMin d.xStart
                xMax := max g.xMax (d.xStart + d.width)
                contrast := if higher then contrast else g.contrast
                kind := if higher then d.kind else g.kind
                stamp := if higher then s.assembler.assembly else g.stamp
                area := min 65535 (g.area + d.width * d.band)
                seenT := g.seenT || d.channel == .t
                seenR := g.seenR || d.channel == .r
                late := g.late || late
                unsettled := g.unsettled || unsettled }
            exec .detectionEntryComplete s =
              .next
                (closedIfPassed late x.slot f
                  { begun with assembler := ⟨s.assembler.slots.set x.slot (some f), number⟩ })) ∧
          ∀ (x y : Slotted) (rest : List Slotted), matching = x :: y :: rest →
            ∃ (kept : Slotted) (f : OpenFlaw) (slots : Vector (Option OpenFlaw) 32), kept ∈ matching ∧
              exec .detectionEntryComplete s =
                .next (closedIfPassed late kept.slot f { begun with assembler := ⟨slots, number⟩ }) ∧
              (∀ z ∈ matching,
                kept.flaw.firstRow < z.flaw.firstRow ∨
                  (kept.flaw.firstRow = z.flaw.firstRow ∧ kept.slot ≤ z.slot)) ∧
              (∀ i : Fin 32,
                slots[i] =
                  if i = kept.slot then some f
                  else if matching.any (fun z => z.slot == i) then none
                  else s.assembler.slots[i]) ∧
              f.firstRow = matching.foldl (fun n z => min n z.flaw.firstRow) d.row ∧
              f.lastRow = matching.foldl (fun n z => max n z.flaw.lastRow) last ∧
              f.xMin = matching.foldl (fun n z => min n z.flaw.xMin) d.xStart ∧
              f.xMax = matching.foldl (fun n z => max n z.flaw.xMax) (d.xStart + d.width) ∧
              f.contrast = matching.foldl (fun n z => max n z.flaw.contrast) contrast ∧
              f.area = min 65535 ((matching.map fun z => z.flaw.area).sum + d.width * d.band) ∧
              f.seenT = ((matching.any fun z => z.flaw.seenT) || d.channel == .t) ∧
              f.seenR = ((matching.any fun z => z.flaw.seenR) || d.channel == .r) ∧
              f.late = ((matching.any fun z => z.flaw.late) || late) ∧
              f.unsettled = ((matching.any fun z => z.flaw.unsettled) || unsettled) ∧
              ((∀ z ∈ matching, z.flaw.contrast < contrast) → f.kind = d.kind ∧ f.stamp = s.assembler.assembly) ∧
              ∀ z ∈ matching, contrast ≤ z.flaw.contrast →
                (∀ v ∈ matching,
                  v = z ∨ v.flaw.contrast < z.flaw.contrast ∨
                    (v.flaw.contrast = z.flaw.contrast ∧ z.flaw.stamp < v.flaw.stamp)) →
                f.kind = z.flaw.kind ∧ f.stamp = z.flaw.stamp)

/-- O26. A DETECTION entry that matches nothing while every slot is occupied closes the open flaw with the smallest last_row,
in the lowest slot among equals, and opens its own in that slot: the forced close is counted, FORCED raised, the closing
sequence run with the forced flag set in the record handed over, and a FORCED span added over the flaw's rows and the gap
tolerance after them unless it is a border flaw. A late detection is counted and marked as in O25. -/
def Obligations.FullTableForcesAClose : Prop :=
  ∀ (s : State) (d : Detection) (x : Slotted), Working s → s.intake.inProcess = some (.detection d) →
    (s.assembler.openFlaws.filter fun y => joinTest s.conf d y.flaw) = [] →
    (∀ i : Fin 32, s.assembler.slots[i] ≠ none) → x ∈ s.assembler.openFlaws →
    (∀ y ∈ s.assembler.openFlaws,
      x.flaw.lastRow < y.flaw.lastRow ∨ (x.flaw.lastRow = y.flaw.lastRow ∧ x.slot ≤ y.slot)) →
    let last := d.row + d.band - 1
    let late := decide (d.row < s.map.w)
    (late = true → s.map.eClosed ≤ last) →
    let zone := s.conf.netZone
    let begun := detectionBegun s late
    let closes := s.accounts.counts.forcedCloses
    let counted : State :=
      { begun with
        accounts :=
          { begun.accounts with
            counts := { begun.accounts.counts with forcedCloses := if closes < 65535 then closes + 1 else closes } }
        links :=
          { begun.links with gantry := { begun.links.gantry with flags := begun.links.gantry.flags ||| 4 } } }
    let closed := closeFlaw true x counted
    let blinded :=
      if x.flaw.xMax < zone.xl ∨ zone.xr < x.flaw.xMin then closed
      else addSpan x.flaw.firstRow (x.flaw.lastRow + s.conf.gapTol) .forced closed
    let reference := s.refs.get d.lane d.channel
    let f : OpenFlaw :=
      { firstRow := d.row
        lastRow := last
        xMin := d.xStart
        xMax := d.xStart + d.width
        contrast := contrastOf reference d.peak
        kind := d.kind
        stamp := s.assembler.assembly
        area := min 65535 (d.width * d.band)
        seenT := d.channel == .t
        seenR := d.channel == .r
        late := late
        unsettled := reference.settle != 8 }
    let number := if s.assembler.assembly < 4294967295 then s.assembler.assembly + 1 else 0
    exec .detectionEntryComplete s =
        .next
          (closedIfPassed late x.slot f
            { blinded with assembler := ⟨s.assembler.slots.set x.slot (some f), number⟩ }) ∧
      ∀ j, judge zone s.recipes x.flaw = some j → s.map.eClosed ≤ x.flaw.lastRow →
        ∃ (r : FlawRecord) (u : State), r.forced = true ∧ r.firstRow = x.flaw.firstRow ∧ r.lastRow = x.flaw.lastRow ∧
          r.kind = x.flaw.kind ∧ r.cls = j.cls ∧ u.map = s.map ∧ closed.map = (handOver r u).map

/-- O27. A MARK or GAP entry completes: W moves to the MARK's position, or to the GAP's end clamped to P, when that lies
beyond it; a MARK that moves W arms STALE; a GAP's glass, from W at the latest, is put under a blind span of its cause; then
the sweep closes exactly the open flaws that W has passed, in ascending first_row and slot order, and the promotion test is
made. The closing sequence counts a border flaw, or counts the flaw by kind and class and hands its record over unless it
lies behind E_closed; a promotion makes the pending recipe current, with a disarmed copy, and raises RECIPE. -/
def Obligations.WatermarkMovesAndSweeps : Prop :=
  (∀ s : State, Working s →
    let taken : State := { s with intake := { s.intake with inProcess := none } }
    (∀ m : Nat, s.intake.inProcess = some (.mark m) →
        let moved : State :=
          { taken with
            map := { s.map with w := max s.map.w m }
            links := { s.links with staleArmed := s.links.staleArmed || decide (s.map.w < m) } }
        exec .markEntryComplete s = .next (promotionTest (sweep moved)) ∧
          (sweep moved).assembler.openFlaws =
            s.assembler.openFlaws.filter
              (fun x => decide (max s.map.w m ≤ x.flaw.lastRow + s.conf.gapTol))) ∧
      ∀ (first last : Nat) (cause : GapCause), s.intake.inProcess = some (.gap first last cause) →
        let w := max s.map.w (min last s.travel.p)
        let blinded := addSpan (min first s.map.w) last cause.span taken
        let moved : State := { blinded with map := { blinded.map with w := w } }
        exec .gapEntryComplete s = .next (promotionTest (sweep moved)) ∧
          (sweep moved).assembler.openFlaws =
            s.assembler.openFlaws.filter (fun x => decide (w ≤ x.flaw.lastRow + s.conf.gapTol)) ∧
          (s.map.eClosed ≤ last → last ≤ 4294967295 →
            ∃ x ∈ moved.map.spans,
              x.first ≤ min first s.map.w ∧ last ≤ x.last ∧ x.causes &&& cause.span.bit = cause.span.bit)) ∧
    (∀ s : State, ∃ order : List Slotted,
      sweep s = order.foldl (fun t x => closeFlaw false x t) s ∧
        order.Perm (s.assembler.openFlaws.filter fun x => decide (x.flaw.lastRow + s.conf.gapTol < s.map.w)) ∧
        order.Pairwise fun x y =>
          x.flaw.firstRow < y.flaw.firstRow ∨ (x.flaw.firstRow = y.flaw.firstRow ∧ x.slot < y.slot)) ∧
    (∀ (forced : Bool) (x : Slotted) (s : State),
      let f := x.flaw
      let c := s.accounts.counts
      let up := fun n : Nat => if n < 65535 then n + 1 else n
      let counted := fun c : Counts => { s with accounts := { s.accounts with counts := c } }
      let freed := fun t : State =>
        { t with assembler := { t.assembler with slots := t.assembler.slots.set x.slot none } }
      (judge s.conf.netZone s.recipes f = none →
          closeFlaw forced x s = freed (counted { c with border := up c.border })) ∧
        ∀ j, judge s.conf.netZone s.recipes f = some j →
          let known :=
            counted
              { c with
                byKind := c.byKind.set f.kind.code (up c.byKind[f.kind.code])
                byClass := c.byClass.set j.cls.code (up c.byClass[j.cls.code]) }
          (f.lastRow < s.map.eClosed → closeFlaw forced x s = freed known) ∧
            (s.map.eClosed ≤ f.lastRow →
              closeFlaw forced x s =
                freed
                  (handOver
                    { number := 0
                      firstRow := f.firstRow
                      lastRow := f.lastRow
                      xMin := j.xMin
                      xMax := j.xMax
                      kind := f.kind
                      cls := j.cls
                      contrast := f.contrast
                      size := j.size
                      points := j.points
                      area := f.area
                      generation := j.generation
                      seenT := f.seenT
                      seenR := f.seenR
                      forced := forced
                      late := f.late
                      clipped := j.clipped
                      unsettled := f.unsettled }
                    known))) ∧
    ∀ s : State,
      let ready := fun a : Nat => a ≤ s.map.w ∧ ∀ x ∈ s.assembler.openFlaws, a ≤ x.flaw.firstRow
      let store := s.recipes
      (∀ a, store.armedAt = some a → ready a →
          promotionTest s =
            { s with
              recipes := ⟨store.pending, store.pending, if store.generation < 255 then store.generation + 1 else 0, none⟩
              links :=
                { s.links with
                  supervisor := { s.links.supervisor with flags := s.links.supervisor.flags ||| 64 } } }) ∧
        ((∀ a, store.armedAt = some a → ¬ready a) → promotionTest s = s)

/-- O28. A closing flaw is a border flaw, or is clipped to the net zone and judged by size, class and points. -/
def Obligations.ClosingFlawIsJudged : Prop :=
  (∀ (zone : Across) (store : RecipeStore) (f : OpenFlaw),
      (f.xMax < zone.xl ∨ zone.xr < f.xMin → judge zone store f = none) ∧
        (zone.xl ≤ f.xMax → f.xMin ≤ zone.xr →
          ∃ j, judge zone store f = some j ∧ j.xMin = max f.xMin zone.xl ∧ j.xMax = min f.xMax zone.xr ∧
            (j.clipped = true ↔ f.xMin < zone.xl ∨ zone.xr < f.xMax) ∧
            j.size = min 65535 (max (f.lastRow - f.firstRow + 1) (j.xMax - j.xMin + 1)) ∧
            (let byPending := ∃ a, store.armedAt = some a ∧ a ≤ f.firstRow ∧ f.late = false
              let e := fun r : Recipe => r.kinds[f.kind.code]
              (byPending →
                  j.generation = (if store.generation < 255 then store.generation + 1 else 0) ∧
                    j.cls = classify (e store.pending) f.contrast j.size ∧
                    j.points = pointsOf (e store.pending) j.cls f.contrast j.size) ∧
                (¬byPending →
                  j.generation = store.generation ∧ j.cls = classify (e store.current) f.contrast j.size ∧
                    j.points = pointsOf (e store.current) j.cls f.contrast j.size)))) ∧
    ∀ (e : KindEntry) (contrast size : Nat),
      (contrast < e.gate → classify e contrast size = .faint) ∧
        (e.gate ≤ contrast → e.scrit ≤ size → classify e contrast size = .critical) ∧
        (e.gate ≤ contrast → size < e.scrit → e.smaj ≤ size → classify e contrast size = .major) ∧
        (e.gate ≤ contrast → size < e.scrit → size < e.smaj → e.smin ≤ size → classify e contrast size = .minor) ∧
        (e.gate ≤ contrast → size < e.scrit → size < e.smaj → size < e.smin → classify e contrast size = .faint) ∧
        pointsOf e .faint contrast size = 0 ∧
        ∀ c : FlawClass, c ≠ .faint →
          pointsOf e c contrast size = min 4095 (e.weight * (size + 1) * (contrast + 32) / 2048)

/-! ## The ribbon map -/

/-- O29. A flaw handed over takes the first number from the numbering counter on that no record carries, and is stored at its
place in map order; into a full map a FAINT one is dropped, another evicts the first FAINT record, and with none it is not
stored, its rows go under a MAPFULL span, and MAPFULL is raised. -/
def Obligations.FlawHandedToTheMap : Prop :=
  ∀ (f : FlawRecord) (s : State), s.map.flaws.length ≤ 768 → s.map.nextNumber ≤ 65535 →
    (∀ g ∈ s.map.flaws, g.number ≤ 65535) →
    let c := s.accounts.counts
    let up := fun n : Nat => if n < 65535 then n + 1 else n
    let stored := fun (old : List FlawRecord) (t : State) =>
      ∃ n tries, n = (s.map.nextNumber + tries) % 65536 ∧ (∀ g ∈ old, g.number ≠ n) ∧
        (∀ i, i < tries → ∃ g ∈ old, g.number = (s.map.nextNumber + i) % 65536) ∧
        (∃ before after, old = before ++ after ∧ t.map.flaws = before ++ { f with number := n } :: after ∧
          (∀ g ∈ before, ¬(f.firstRow < g.firstRow ∨ (f.firstRow = g.firstRow ∧ n < g.number))) ∧
          ∀ g, after.head? = some g → f.firstRow < g.firstRow ∨ (f.firstRow = g.firstRow ∧ n < g.number)) ∧
        t.map.nextNumber = (if n < 65535 then n + 1 else 0) ∧
        { t with map := s.map, accounts := s.accounts } = s ∧
        { t.map with flaws := s.map.flaws, nextNumber := s.map.nextNumber } = s.map
    (s.map.flaws.length < 768 → stored s.map.flaws (handOver f s) ∧ (handOver f s).accounts = s.accounts) ∧
      (s.map.flaws.length = 768 → f.cls = .faint →
        handOver f s =
          { s with accounts := { s.accounts with counts := { c with faintDropped := up c.faintDropped } } }) ∧
      (s.map.flaws.length = 768 → f.cls ≠ .faint →
        ∀ (before after : List FlawRecord) (g : FlawRecord), s.map.flaws = before ++ g :: after → g.cls = .faint →
          (∀ h ∈ before, h.cls ≠ .faint) →
          stored (before ++ after) (handOver f s) ∧
            (handOver f s).accounts =
              { s.accounts with counts := { c with faintDropped := up c.faintDropped } }) ∧
      (s.map.flaws.length = 768 → f.cls ≠ .faint → (∀ h ∈ s.map.flaws, h.cls ≠ .faint) →
        let blinded :=
          addSpan f.firstRow f.lastRow .mapFull
            { s with accounts := { s.accounts with counts := { c with mapFull := up c.mapFull } } }
        handOver f s =
          { blinded with
            links :=
              { blinded.links with
                supervisor :=
                  { blinded.links.supervisor with flags := blinded.links.supervisor.flags ||| 16 } } })

/-- O30. A span added joins every span it overlaps or touches into one, from the least to the greatest end with all their
causes, at its place in the order; when it touches none it is inserted while fewer than eight stand, and merges with its
nearest neighbour when eight do, the one before when both are equally near, which raises SPANMERGE; a span behind E_closed
changes nothing. Its glass is covered with its cause, and no span of the list shrinks or loses a cause. An end beyond
4,294,967,295 is taken as 4,294,967,295. -/
def Obligations.SpanAdditionCoversItsGlass : Prop :=
  (∀ (first last : Nat) (cause : SpanCause) (s : State),
      addSpan first last cause s = addSpan (min first 4294967295) (min last 4294967295) cause s) ∧
    ∀ (first last : Nat) (cause : SpanCause) (s : State), first ≤ last → last ≤ 4294967295 →
      s.map.spans.length ≤ 8 →
      let t := addSpan first last cause s
      let touching := s.map.spans.filter fun y => decide (y.first ≤ last + 1 ∧ first ≤ y.last + 1)
      (last < s.map.eClosed → t = s) ∧
        (s.map.eClosed ≤ last →
          (∃ x ∈ t.map.spans, x.first ≤ first ∧ last ≤ x.last ∧ x.causes &&& cause.bit = cause.bit) ∧
            (∀ y ∈ s.map.spans, ∃ x ∈ t.map.spans,
              x.first ≤ y.first ∧ y.last ≤ x.last ∧ x.causes &&& y.causes = y.causes) ∧
            t.map.spans.length ≤ 8 ∧
            (touching ≠ [] ∨ s.map.spans.length < 8 →
              let x : Span :=
                ⟨touching.foldl (fun n y => min n y.first) first, touching.foldl (fun n y => max n y.last) last,
                  touching.foldl (fun n y => n ||| y.causes) cause.bit⟩
              t.links = s.links ∧
                ∃ before after,
                  before ++ after =
                      s.map.spans.filter (fun y => !decide (y.first ≤ last + 1 ∧ first ≤ y.last + 1)) ∧
                    t.map.spans = before ++ x :: after ∧ (∀ y ∈ before, y.first ≤ x.first) ∧
                    ∀ y, after.head? = some y → x.first < y.first) ∧
            (touching = [] → s.map.spans.length = 8 →
              t.links =
                  { s.links with
                    supervisor := { s.links.supervisor with flags := s.links.supervisor.flags ||| 32 } } ∧
                (s.map.spans.Pairwise (fun y z => y.last + 1 < z.first) → (∀ y ∈ s.map.spans, y.first ≤ y.last) →
                  (∀ z rest, s.map.spans = z :: rest → last < z.first →
                      t.map.spans = ⟨first, z.last, cause.bit ||| z.causes⟩ :: rest) ∧
                    (∀ before y, s.map.spans = before ++ [y] → y.last < first →
                      t.map.spans = before ++ [⟨y.first, last, cause.bit ||| y.causes⟩]) ∧
                    ∀ before y z after, s.map.spans = before ++ y :: z :: after → y.last < first → last < z.first →
                      (first - y.last - 1 ≤ z.first - last - 1 →
                          t.map.spans = before ++ ⟨y.first, last, cause.bit ||| y.causes⟩ :: z :: after) ∧
                        (z.first - last - 1 < first - y.last - 1 →
                          t.map.spans = before ++ y :: ⟨first, z.last, cause.bit ||| z.causes⟩ :: after))) ∧
            { t with map := s.map, links := s.links } = s ∧ { t.map with spans := s.map.spans } = s.map)

/-! ## The planner -/

/-- O31. A raised deadline opens the decision: a switch takes effect first, with MODE on every link, and the course is the
first that applies of SAMPLE, CULL-MODE, NO-ORDER and PRODUCT; the links change by the switch alone, which raises MODE and
sets STARVED where it rises. The active order is the first OPEN order with need, and is absent only when there is none. -/
def Obligations.DeadlineOpensTheDecision : Prop :=
  (∀ (s : State) (d : Nat), Working s → s.travel.deadlineRaised = some d → s.planner.state = .armed →
      let mode := s.switch.getD s.mode
      ∃ (t : State) (course : Course), exec .deadlineEvent s = .next t ∧
        t.planner = { s.planner with state := .deciding, course := some course } ∧
        t.travel = { s.travel with deadlineRaised := none } ∧ t.mode = mode ∧ t.switch = none ∧
        (∀ m rest, s.production.samples = m :: rest → m ≤ s.planner.s → course = .sample m true) ∧
        ((∀ m rest, s.production.samples = m :: rest → s.planner.s < m) →
          (mode = .cull → course = .cullMode) ∧
            (mode = .run → activeOrder s.production.orders = none → course = .noOrder) ∧
            (mode = .run → ∀ o, activeOrder s.production.orders = some o →
              course = .product ⟨o.id, o.lp, o.short, o.pattern, o.grade, true⟩)) ∧
        (s.switch = none → t.links = s.links) ∧
        (s.switch ≠ none →
          t.links =
            { s.links with
              gantry := { s.links.gantry with flags := s.links.gantry.flags ||| 128 }
              cutter := { s.links.cutter with flags := s.links.cutter.flags ||| 128 }
              supervisor :=
                { s.links.supervisor with
                  flags :=
                    s.links.supervisor.flags ||| 128 |||
                      (if s.mode ≠ .run ∧ mode = .run ∧ activeOrder s.production.orders = none then 2 else 0) } }) ∧
        { t with planner := s.planner, travel := s.travel, mode := s.mode, switch := s.switch, links := s.links } = s) ∧
    ∀ orders : List Order,
      let wants := fun o : Order => o.state = .opened ∧ 0 < o.wanted - o.delivered - o.inFlight
      (∀ o, activeOrder orders = some o ↔
          wants o ∧ ∃ before after, orders = before ++ o :: after ∧ ∀ x ∈ before, ¬wants x) ∧
        (activeOrder orders = none ↔ ∀ o ∈ orders, ¬wants o)

/-- O32. The commit of a SAMPLE, CULL-MODE or NO-ORDER course: the row and its trailing cut, the next ids, the plan start,
the deadline compare, and the expiry compare where the cut is the new head; and a commit that meets a full row table is
held. -/
def Obligations.CommitLaysRowAndCut : Prop :=
  (∀ (c : Instr) (s : State), Completes c s →
      let p := s.planner
      (p.course = some .cullMode ∨ p.course = some .noOrder →
          ∃ t, exec c s = .next t ∧
            RowLaid s t ⟨p.nextRowId, p.s, p.s + s.conf.cmax, .cull, none, none, 0, 0, false, false, false⟩ false ∧
            t.production = s.production) ∧
        ∀ (m : Nat) (present : Bool), p.course = some (.sample m present) →
          let stop := p.s + s.conf.ls
          let unverified := decide (s.map.w < stop) || s.map.spans.any fun x => x.first < stop && p.s ≤ x.last
          ∃ t, exec c s = .next t ∧
            RowLaid s t
              ⟨p.nextRowId, p.s, stop, .sample, none, none, 1, 0, decide (s.map.w < stop), unverified, false⟩ unverified ∧
            t.production =
              { s.production with
                samples := if present then s.production.samples.erase m else s.production.samples }) ∧
    ∀ (s : State) (course : Course), Working s → s.planner.state = .deciding → s.planner.course = some course →
      18 ≤ s.planner.rows.length → exec .commit s = .next { s with planner := { s.planner with state := .held } }

/-- O33. The commit of a PRODUCT course. A candidate without rejecters becomes a PRODUCT row of Lp whose order plates are the
order's need at most, reserved on an OPEN order that has not left the list. With rejecters, it becomes a SHORT row when the
order has a short length that fits before the first of them, and otherwise a CULL row to the end of the cull chain and the
margin, held to Cmin and Cmax, which raises BLIND when it meets a blind rejecter. Over a pattern that has become undefined
it is a CULL row of Cmax; that this row raises no BLIND is the model's reading (log 16). Each row is forced when W lies short
of its end; that a CULL row is unverified when W lies short of its end or a blind span meets it, under either blind policy,
is how the model reads R117 (log 26, DEDUCED). -/
def Obligations.ProductCourseCommitsItsRow : Prop :=
  ∀ (c : Instr) (s : State) (course : ProductCourse), Completes c s → s.planner.course = some (.product course) →
    let p := s.planner
    let conf := s.conf
    let columns := s.production.patterns[course.pattern]
    let found := rejecters s ⟨p.s, p.s + course.lp, columns, course.grade⟩
    let notInspected := fun stop : Nat =>
      decide (s.map.w < stop) || s.map.spans.any fun x => x.first < stop && p.s ≤ x.last
    let unverified := fun stop : Nat => decide (s.recipes.current.policy = .pass) && notInspected stop
    let cullRow := fun length : Nat =>
      (⟨p.nextRowId, p.s, p.s + length, .cull, none, none, 0, 0, decide (s.map.w < p.s + length),
        notInspected (p.s + length), false⟩ : Row)
    let plateRow := fun (kind : PieceKind) (length plates : Nat) =>
      (⟨p.nextRowId, p.s, p.s + length, kind, some course.order, some course.pattern, columns.length, plates,
        decide (s.map.w < p.s + length), unverified (p.s + length), false⟩ : Row)
    (columns = [] →
        ∃ t, exec c s = .next t ∧ RowLaid s t (cullRow conf.cmax) false ∧ t.production = s.production) ∧
      (columns ≠ [] → found = [] →
        ∃ (t : State) (plates : Nat), exec c s = .next t ∧
          RowLaid s t (plateRow .product course.lp plates) (unverified (p.s + course.lp)) ∧
          (∀ o, course.present = true → s.production.order course.order = some o → o.state = .opened →
            plates = min columns.length (o.wanted - o.delivered - o.inFlight) ∧
              t.production.order course.order = some { o with inFlight := o.inFlight + plates } ∧
              (∀ other, other ≠ course.order → t.production.order other = s.production.order other) ∧
              { t.production with orders := s.production.orders } = s.production) ∧
          ((course.present = false ∨ ∀ o, s.production.order course.order = some o → o.state ≠ .opened) →
            plates = 0 ∧ t.production = s.production)) ∧
      (columns ≠ [] → ∀ r ∈ found, (∀ x ∈ found, r.first ≤ x.first) →
        let room := max p.s r.first - p.s
        (∀ length, course.short = some length → 1 ≤ length → length ≤ room →
            ∃ t, exec c s = .next t ∧ RowLaid s t (plateRow .short length 0) (unverified (p.s + length)) ∧
              t.production = s.production) ∧
          ((∀ length, course.short = some length → room < length) →
            ∃ (t : State) (begun : Rejecter) (e : Nat), exec c s = .next t ∧ begun ∈ found ∧ begun.first = r.first ∧
              ChainEnd conf.cmin found (begun.last + 1) e ∧
              t.production = s.production ∧
              let length := max conf.cmin (min conf.cmax (e + conf.cullMargin - p.s))
              RowLaid s t (cullRow length)
                (found.any fun x => x.blind && decide (x.first < p.s + length ∧ p.s ≤ x.last))))

/-- O34. When a PRODUCT or SHORT row is committed, no mapped flaw and no provisionally classified open flaw at or above the
order's reject class meets the row along and any of its pattern's columns across. The reject class of a grade; and the
rejecters of a candidate: the mapped and the open flaws at or above the reject class that meet it along and a column across,
none below it, and under blind policy CULL the blind spans that meet it along and the uninspected tail. -/
def Obligations.NoKnownRejecterInACommittedRow : Prop :=
  (∀ (c : Instr) (s t : State) (course : ProductCourse) (row : Row), Completes c s →
      s.planner.course = some (.product course) → exec c s = .next t →
      t.planner.rows = s.planner.rows ++ [row] → row.kind = .product ∨ row.kind = .short →
      let columns := s.production.patterns[course.pattern]
      let bound := rejectClass course.grade s.recipes.current.limits.nb
      (∀ f ∈ s.map.flaws, bound.code ≤ f.cls.code → f.firstRow < row.stop → row.start ≤ f.lastRow →
          ∀ a ∈ columns, ¬(f.xMin < a.xr ∧ a.xl ≤ f.xMax)) ∧
        ∀ x ∈ s.assembler.openFlaws, ∀ j, judge s.conf.netZone s.recipes x.flaw = some j → bound.code ≤ j.cls.code →
          x.flaw.firstRow < row.stop → row.start ≤ x.flaw.lastRow → ∀ a ∈ columns, ¬(j.xMin < a.xr ∧ a.xl ≤ j.xMax)) ∧
    (∀ nb : Nat,
      rejectClass .a nb = .major ∧ (nb = 0 → rejectClass .b nb = .major) ∧ (1 ≤ nb → rejectClass .b nb = .critical) ∧
        rejectClass .c nb = .critical) ∧
    ∀ (s : State) (c : Candidate) (r : Rejecter),
      let bound := rejectClass c.grade s.recipes.current.limits.nb
      let along := fun first last : Nat => first < c.stop ∧ c.start ≤ last
      let across := fun xMin xMax : Nat => ∃ a ∈ c.columns, xMin < a.xr ∧ a.xl ≤ xMax
      let culls := s.recipes.current.policy = .cull
      r ∈ rejecters s c ↔
        (∃ f ∈ s.map.flaws, bound.code ≤ f.cls.code ∧ along f.firstRow f.lastRow ∧ across f.xMin f.xMax ∧
            r = ⟨f.firstRow, f.lastRow, f.forced⟩) ∨
          (∃ x ∈ s.assembler.openFlaws, ∃ j, judge s.conf.netZone s.recipes x.flaw = some j ∧
            bound.code ≤ j.cls.code ∧ along x.flaw.firstRow x.flaw.lastRow ∧ across j.xMin j.xMax ∧
            r = ⟨x.flaw.firstRow, x.flaw.lastRow, false⟩) ∨
          (culls ∧ ∃ x ∈ s.map.spans, along x.first x.last ∧ r = ⟨x.first, x.last, true⟩) ∨
          (culls ∧ s.map.w < c.stop ∧ r = ⟨max c.start s.map.w, c.stop - 1, true⟩)

/-! ## The cutter -/

/-- O35. TAKE first gives up a QUEUED head whose arrival has passed, as the EXPIRY of that cut would, and begins again with
what that leaves. Then it issues the oldest QUEUED cut and returns its record; with none it is refused EMPTY, and with two
ISSUED it is refused BUSY. -/
def Obligations.TakeIssuesTheOldestCut : Prop :=
  ∀ (s : State) (arg : Byte) (b : Body), Working s →
    (∀ c rest, s.dispatcher.cuts = c :: rest → c.state = .queued → c.target + s.conf.dCut < s.travel.p →
        ∃ t,
          exec .expiry { s with travel := { s.travel with expiryRaised := c.seq :: s.travel.expiryRaised } } = .next t ∧
            exec (.take .cutter arg b) s = exec (.take .cutter arg b) t) ∧
      ((∀ c rest, s.dispatcher.cuts = c :: rest → c.state = .queued → s.travel.p ≤ c.target + s.conf.dCut) →
        ((∀ c ∈ s.dispatcher.cuts, c.state = .issued) →
            exec (.take .cutter arg b) s = .next (refusedFor .cutter b 0x20 .empty s)) ∧
          ∀ (before after : List Cut) (c : Cut), s.dispatcher.cuts = before ++ c :: after → c.state = .queued →
            (∀ x ∈ before, x.state = .issued) →
            (2 ≤ s.dispatcher.issuedCount →
                exec (.take .cutter arg b) s = .next (refusedFor .cutter b 0x20 .busy s)) ∧
              (s.dispatcher.issuedCount < 2 →
                exec (.take .cutter arg b) s =
                  .next
                    (transferred .cutter b 0x20
                      (Reply.done
                        ([word c.seq] ++ words32 c.target ++
                          [BitVec.ofNat 16 ((c.target + s.conf.dCut) / 65536),
                            BitVec.ofNat 16 (c.target + s.conf.dCut)] ++
                          [word (c.kind.code + 16 * (match c.pattern with
                            | some i => i.val
                            | none => 15))]))
                      { s with
                        dispatcher :=
                          { s.dispatcher with cuts := before ++ { c with state := .issued } :: after } })))

/-- O36. DONE OK on the ISSUED head forms the actual position from the deviation held to T_dev, hands the piece of R143's
table to the grader, moves A_last, consumes the merged-piece record and watches the next head for expiry; the cut's row is
kept where the piece names it, and folded in every other case. A position beyond 4,294,967,295 is kept exactly, which is the
model's choice (log 12). -/
def Obligations.DoneOkHandsOverThePiece : Prop :=
  ∀ (s : State) (b : Body) (c : Cut) (rest : List Cut), Working s → 2 ≤ b.data.length →
    s.dispatcher.cuts = c :: rest → c.state = .issued → valueAt b.data 0 = c.seq → s.grader.queue.length < 4 →
    let dev := (b.data.getD 1 0).toInt
    let bounded := max (-(s.conf.tDev : Int)) (min (s.conf.tDev : Int) dev)
    let a := (max 0 ((c.target : Int) + bounded)).toNat
    let d := s.dispatcher
    let plain := ∃ l, d.aLast = some l ∧ d.merged = none ∧ l < a
    ∃ (t : State) (kind : PieceKind) (start row : Option Nat) (pattern : Option (Fin 8)),
      exec (.doneOk .cutter 0 b) s = .next t ∧
      t.grader = { s.grader with queue := s.grader.queue ++ [⟨c.seq, kind, start, a, row, pattern⟩] } ∧
      t.dispatcher = { d with cuts := rest, aLast := some a, merged := none } ∧
      ExpiryFollowsHead s.travel.expiryRaised t ∧
      t.links.cutter.pending =
        ⟨(if bounded = dev ∧ 0 ≤ (c.target : Int) + bounded then 0x2100 else 0x2150), words32 a ++ [word kind.code]⟩ ∧
      (d.aLast = none → c.kind = .head → kind = .head ∧ start = none) ∧
      (d.aLast = none → c.kind ≠ .head → kind = .head ∧ start = some d.headPos) ∧
      (∀ l m, d.aLast = some l → d.merged = some m → kind = .merged ∧ start = m.start) ∧
      (∀ l, d.aLast = some l → d.merged = none → a ≤ l → kind = .merged ∧ start = some l) ∧
      (∀ l, d.aLast = some l → d.merged = none → l < a →
        kind = c.kind ∧ start = some l ∧ row = c.row ∧ pattern = c.pattern ∧ t.planner = s.planner ∧
          t.production = s.production) ∧
      (¬plain → row = none ∧ pattern = none ∧ RowFolded c s t) ∧
      t.map = s.map ∧ t.intake = s.intake ∧ t.assembler = s.assembler ∧ t.recipes = s.recipes ∧ t.conf = s.conf ∧
      t.accounts = s.accounts ∧ t.travel.p = s.travel.p ∧ t.mode = s.mode

/-- O37. A lost head cut, by DONE MISSED or by the expiry that names it: the entry leaves, the merged-piece record is made
from A_last when absent, its row, where it has one, is folded and counted in the record with its order plates given back,
the next head is watched for expiry, and the loss is counted at the dispatcher and in the shift; only an expiry raises
EXPIRED. A row removed leaves at once when it is the first, with the rows behind it that were waiting, and is flagged left
otherwise. -/
def Obligations.LostCutIsFolded : Prop :=
  (∀ (s : State) (c : Cut) (rest : List Cut), Working s → s.dispatcher.cuts = c :: rest →
    let d := s.dispatcher
    let up := fun n : Nat => if n < 65535 then n + 1 else n
    let counts := s.accounts.counts
    let record := d.merged.getD ⟨d.aLast, 0⟩
    let folds := ∃ id row, c.row = some id ∧ s.planner.rows.find? (fun r => r.id == id) = some row
    let lost := fun (raised : List Nat) (t : State) =>
      t.dispatcher.cuts = rest ∧ t.dispatcher.aLast = d.aLast ∧
        (folds → t.dispatcher.merged = some ⟨record.start, up record.count⟩) ∧
        (¬folds → t.dispatcher.merged = some record) ∧ RowFolded c s t ∧ ExpiryFollowsHead raised t ∧
        t.grader = s.grader ∧ t.map = s.map ∧ t.travel.p = s.travel.p ∧ t.conf = s.conf ∧ t.mode = s.mode
    (∀ b : Body, 2 ≤ b.data.length → valueAt b.data 0 = c.seq → c.state = .issued → s.grader.queue.length < 4 →
        ∃ t, exec (.doneMissed .cutter b) s = .next t ∧ lost s.travel.expiryRaised t ∧
          t.dispatcher.missed = up d.missed ∧ t.dispatcher.expired = d.expired ∧
          t.accounts = { s.accounts with counts := { counts with missed := up counts.missed } } ∧
          t.links.cutter.pending = ⟨0x2100, [0, 0, 0]⟩ ∧ t.links.cutter.flags &&& 2 = s.links.cutter.flags &&& 2) ∧
      ∀ later, s.travel.expiryRaised = c.seq :: later →
        ∃ t, exec .expiry s = .next t ∧ lost later t ∧
          t.dispatcher.expired = up d.expired ∧ t.dispatcher.missed = d.missed ∧
          t.accounts = { s.accounts with counts := { counts with expired := up counts.expired } } ∧
          t.links.cutter.flags &&& 2 = 2) ∧
    ∀ (id : Nat) (row : Row), row.id = id →
      (∀ rest, removeRow id (row :: rest) = rest.dropWhile Row.left) ∧
        ∀ (first : Row) (before after : List Row), first.left = false → (∀ r ∈ first :: before, r.id ≠ id) →
          removeRow id (first :: before ++ row :: after) = first :: before ++ { row with left := true } :: after

/-- O38. DONE is refused RANGE for an undefined outcome, GONE for a cut that is not in the queue, SEQ for one that is not the
ISSUED head, and BUSY while four pieces wait. -/
def Obligations.DoneChecksItsCut : Prop :=
  ∀ (s : State) (arg : Byte) (b : Body), Working s → 2 ≤ b.data.length →
    let seq := valueAt b.data 0
    (1 < arg.toNat → exec (.doneOk .cutter arg b) s = .next (refusedFor .cutter b 0x21 .range s)) ∧
      ∀ i ∈ [Instr.doneOk .cutter 0 b, .doneMissed .cutter b],
        ((∀ c ∈ s.dispatcher.cuts, c.seq ≠ seq) → exec i s = .next (refusedFor .cutter b 0x21 .gone s)) ∧
          (∀ c rest, s.dispatcher.cuts = c :: rest → c.seq ≠ seq → (∃ x ∈ rest, x.seq = seq) →
            exec i s = .next (refusedFor .cutter b 0x21 .seq s)) ∧
          (∀ c rest, s.dispatcher.cuts = c :: rest → c.seq = seq → c.state = .queued →
            exec i s = .next (refusedFor .cutter b 0x21 .seq s)) ∧
          ∀ c rest, s.dispatcher.cuts = c :: rest → c.seq = seq → c.state = .issued → 4 ≤ s.grader.queue.length →
            exec i s = .next (refusedFor .cutter b 0x21 .busy s)

/-- O39. ROUTE removes the oldest entries and returns them, three words each; CSTAT reports the dispatcher and changes
nothing. That its word 9 is 0 without a merged-piece record is the model's choice (log 29). -/
def Obligations.RouteAndCstatReadTheDispatcher : Prop :=
  ∀ (s : State) (arg : Byte) (b : Body), Working s →
    let n := arg.toNat
    let d := s.dispatcher
    let entryWords := fun e : RouteEntry =>
      [word e.seq,
        word
          (e.kind.code + 16 * e.column + 256 * e.dest +
            4096 * (match e.grade with
              | none => 0
              | some .a => 1
              | some .b => 2
              | some .c => 3
              | some .x => 4)),
        word e.plate]
    (n = 0 ∨ 8 < n → exec (.route .cutter arg b) s = .next (refusedFor .cutter b 0x22 .range s)) ∧
      (1 ≤ n → n ≤ 8 → d.routing = [] → exec (.route .cutter arg b) s = .next (refusedFor .cutter b 0x22 .empty s)) ∧
      (1 ≤ n → n ≤ 8 → d.routing ≠ [] →
        exec (.route .cutter arg b) s =
          .next
            (transferred .cutter b 0x22
              (Reply.done (word (min n d.routing.length) :: (d.routing.take n).flatMap entryWords))
              { s with dispatcher := { d with routing := d.routing.drop n } })) ∧
      exec (.cstat .cutter arg b) s =
        .next
          (transferred .cutter b 0x23
            (Reply.done
              ([word d.cuts.length, word (d.cuts.countP fun c => c.state == .issued),
                  word (d.cuts.countP fun c => c.state == .queued), word ((d.cuts.head?.map Cut.seq).getD 0)] ++
                words32 (d.aLast.getD 0) ++
                [if d.aLast.isSome then 1 else 0, if d.merged.isSome then 1 else 0,
                  word ((d.merged.map Merged.count).getD 0), word d.routing.length, word d.missed, word d.expired,
                  word d.routeLost]))
            s)

/-! ## The grader -/

/-- O40. The idle grader takes the oldest piece, in a step of its own, which is the model's choice (log 28), with the
copy of its row's order, plates, flags and columns and of the net zone; a CULL, HEAD or MERGED piece leaves one CULLET
entry, which overwrites the oldest of a full list, its length as cull length and its length times the net width as total
cut area, removes its row, and is released. The remainder that stands after an area has saturated is the model's reading
(log 18). -/
def Obligations.CullPieceGoesToTheCullet : Prop :=
  ∀ s : State, Working s →
    (∀ (p : Piece) (rest : List Piece), s.grader.closing = none → s.grader.queue = p :: rest →
        let takes := fun c : Closing =>
          exec .pieceTake s = .next { s with grader := { s.grader with queue := rest, closing := some c } }
        (∀ id r, p.row = some id → s.planner.rows.find? (fun r => r.id == id) = some r →
            takes
              { piece := p
                order := r.order
                k := r.k
                orderPlates := r.orderPlates
                unverified := r.unverified
                forced := r.forced
                columns := match r.pattern with
                  | some i => s.production.patterns[i]
                  | none => []
                netZone := s.conf.netZone
                cleared := false }) ∧
          ((∀ id, p.row = some id → s.planner.rows.find? (fun r => r.id == id) = none) →
            takes
              { piece := p
                order := none
                k := 0
                orderPlates := 0
                unverified := false
                forced := false
                columns := []
                netZone := s.conf.netZone
                cleared := false })) ∧
      ∀ c : Closing, s.grader.closing = some c →
        c.piece.kind = .cull ∨ c.piece.kind = .head ∨ c.piece.kind = .merged →
        let length := match c.piece.start with
          | some a => c.piece.stop - a
          | none => 0
        let edge := max s.map.eClosed c.piece.stop
        let counts := s.accounts.counts
        let routing := s.dispatcher.routing
        let overwrites := 32 ≤ routing.length
        let up := fun n : Nat => if n < 65535 then n + 1 else n
        let sum := s.accounts.totalRem + length * (c.netZone.xr - c.netZone.xl)
        let full := counts.totalArea = 4294967295
        ∃ t, exec .cullPieceClose s = .next t ∧
          t.dispatcher =
            { s.dispatcher with
              routing :=
                (if overwrites then routing.drop 1 else routing) ++
                  [⟨c.piece.seq, c.piece.kind, 0, s.conf.dest[7], none, 0⟩]
              routeLost := if overwrites then up s.dispatcher.routeLost else s.dispatcher.routeLost } ∧
          t.accounts =
            { s.accounts with
              counts :=
                { counts with
                  routeLost := if overwrites then up counts.routeLost else counts.routeLost
                  cullLength := min 4294967295 (counts.cullLength + length)
                  totalArea := if full then counts.totalArea else min 4294967295 (counts.totalArea + sum / 10000) }
              totalRem := if full then s.accounts.totalRem else sum % 10000 } ∧
          t.links =
            { s.links with
              cutter :=
                { s.links.cutter with
                  flags := s.links.cutter.flags ||| (if overwrites then 16 else 0) ||| (if routing = [] then 8 else 0) } } ∧
          t.grader = { s.grader with closing := none } ∧
          t.map =
            { s.map with
              eClosed := edge
              flaws := s.map.flaws.filter fun f => decide (edge ≤ f.lastRow)
              spans := s.map.spans.filter fun x => decide (edge ≤ x.last) } ∧
          (∀ id, c.piece.row = some id → c.cleared = false →
            t.planner = { s.planner with rows := removeRow id s.planner.rows }) ∧
          (c.piece.row = none ∨ c.cleared = true → t.planner = s.planner) ∧
          { t with
            dispatcher := s.dispatcher
            accounts := s.accounts
            links := s.links
            grader := s.grader
            map := s.map
            planner := s.planner } = s

/-- O41. The close of a PRODUCT, SHORT or SAMPLE piece: one plate per column, each with the next id, its flaws, points and
density from the map, its grade, its destination by the table of R163, a log entry with its flaw list, and a routing entry;
the order plates make their accounting steps (O43), the plates are counted by grade, class, length and area (O40 states how
an area is carried), the row is removed and the piece released. An order plate whose order is not in the list, which no run
meets, is surplus (log 17). -/
def Obligations.PlatePieceIsGraded : Prop :=
  ∀ (s : State) (c : Closing), Working s → s.grader.closing = some c →
    c.piece.kind = .product ∨ c.piece.kind = .short ∨ c.piece.kind = .sample →
    1 ≤ s.grader.nextPlate → s.grader.nextPlate ≤ 65535 → s.dispatcher.routing.length ≤ 32 →
    s.grader.log.length ≤ 64 →
    let product := c.piece.kind = .product
    let columns := match c.piece.kind with
      | .sample => [c.netZone]
      | _ => c.columns
    let start := c.piece.start.getD 0
    let stop := c.piece.stop
    let limits := s.recipes.current.limits
    let codes := s.conf.dest
    let edge := max s.map.eClosed stop
    let lengthOfPiece := match c.piece.start with
      | some a => stop - a
      | none => 0
    ∃ (t : State) (plates : List (PlateEntry × DestClass)), exec .platePieceClose s = .next t ∧
      plates.length = columns.length ∧
      (∀ (i : Nat) (e : PlateEntry) (cls : DestClass) (a : Across), plates[i]? = some (e, cls) → columns[i]? = some a →
        let flaws := s.map.flaws.filter fun f =>
          f.firstRow < stop && start ≤ f.lastRow && f.xMin < a.xr && a.xl ≤ f.xMax
        let points := fun f : FlawRecord =>
          if min (min (f.firstRow - start) (stop - 1 - f.lastRow)) (min (f.xMin - a.xl) (a.xr - 1 - f.xMax)) < limits.edge
          then f.points * limits.fe / 16
          else f.points
        let ofClass := fun k : FlawClass => min 65535 (flaws.countP fun f => f.cls == k)
        let ordered := product ∧ c.cleared = false ∧ i < c.orderPlates
        let order := c.order.bind s.production.order
        e.id = (s.grader.nextPlate - 1 + i) % 65535 + 1 ∧ e.row = c.piece.row.getD 0 ∧ e.order = c.order ∧ e.column = i ∧
          e.kind = c.piece.kind ∧ e.start = start ∧ e.stop = stop ∧ e.width = a.xr - a.xl ∧
          e.unverified = c.unverified ∧ e.forced = c.forced ∧ e.surplus = decide (product ∧ ¬ordered) ∧
          e.short = decide (c.piece.kind = .short) ∧ e.sample = decide (c.piece.kind = .sample) ∧
          e.faint = ofClass .faint ∧ e.minor = ofClass .minor ∧ e.major = ofClass .major ∧
          e.critical = ofClass .critical ∧ e.sum = min 65535 (flaws.map points).sum ∧
          e.density = min 65535 (e.sum * 1000000 / ((stop - start) * (a.xr - a.xl))) ∧
          e.grade = gradeOf limits e.critical e.major e.density c.unverified ∧ e.shift = s.accounts.shift ∧
          (∃ listed : List ListedFlaw,
            listed.Perm
                (flaws.map fun f => ⟨f.number, f.kind, f.cls, points f, f.firstRow - start, f.xMin - a.xl⟩) ∧
              listed.Pairwise (fun x y => y.points < x.points ∨ (x.points = y.points ∧ x.number ≤ y.number)) ∧
              e.flaws = listed.take 6) ∧
          e.more = min 65535 (flaws.length - 6) ∧
          (c.piece.kind = .sample → cls = .sample ∧ e.dest = codes[6]) ∧
          (c.piece.kind ≠ .sample → e.grade = .x → cls = .cullet ∧ e.dest = codes[7]) ∧
          (c.piece.kind = .short → e.grade ≠ .x → cls = .short ∧ e.dest = codes[5]) ∧
          (∀ o, ordered → e.grade ≠ .x → order = some o → e.grade.code ≤ o.grade.code →
            cls = .order ∧ e.dest = o.stacker) ∧
          (∀ o, ordered → e.grade ≠ .x → order = some o → o.grade.code < e.grade.code →
            cls = .downgrade ∧ e.dest = if e.grade = .b then codes[3] else codes[4]) ∧
          (product → e.grade ≠ .x → (ordered → order = none) →
            cls = .surplus ∧
              e.dest = if e.grade = .a then codes[0] else if e.grade = .b then codes[1] else codes[2])) ∧
      (let n := plates.length
        let lost := s.dispatcher.routing.length + n - 32
        let more := fun k : Nat => max k (min 65535 (k + lost))
        let steps := plates.filter fun x => !x.1.surplus && !x.1.short && !x.1.sample
        let stepped : State := match c.order with
          | some id => steps.foldl (fun (u : State) (x : PlateEntry × DestClass) => accountPlate id (x.2 == .order) u) s
          | none => s
        let counted := fun (acc : Accounts) (x : PlateEntry × DestClass) =>
          let k := acc.counts
          let g := x.1.grade.slot
          let d := x.2.slot
          let both : Accounts :=
            if k.byGrade[g] < 65535 ∧ k.byDest[d] < 65535 then
              { acc with
                counts :=
                  { k with byGrade := k.byGrade.set g (k.byGrade[g] + 1), byDest := k.byDest.set d (k.byDest[d] + 1) } }
            else acc
          match x.2 with
          | .cullet =>
            { both with
              counts := { both.counts with cullLength := min 4294967295 (both.counts.cullLength + (stop - start)) } }
          | .order | .surplus =>
            let r := carryArea both.counts.productArea both.productRem ((stop - start) * x.1.width)
            { both with counts := { both.counts with productArea := r.1 }, productRem := r.2 }
          | _ => both
        let all := plates.foldl counted s.accounts
        let total := carryArea all.counts.totalArea all.totalRem (lengthOfPiece * (c.netZone.xr - c.netZone.xl))
        t.grader =
            { s.grader with
              closing := none
              nextPlate := (s.grader.nextPlate - 1 + n) % 65535 + 1
              wrapped := s.grader.wrapped || decide (65535 < s.grader.nextPlate + n)
              log := (s.grader.log ++ plates.map Prod.fst).drop (s.grader.log.length + n - 64) } ∧
          t.dispatcher =
            { s.dispatcher with
              routing :=
                (s.dispatcher.routing ++
                  plates.map fun x =>
                    (⟨c.piece.seq, c.piece.kind, x.1.column, x.1.dest, some x.1.grade, x.1.id⟩ : RouteEntry)).drop lost
              routeLost := more s.dispatcher.routeLost } ∧
          t.production = stepped.production ∧
          t.accounts =
            { all with
              counts := { all.counts with totalArea := total.1, routeLost := more all.counts.routeLost }
              totalRem := total.2 } ∧
          t.links =
            { s.links with
              cutter :=
                { s.links.cutter with
                  flags :=
                    s.links.cutter.flags ||| (if lost = 0 then 0 else 16) |||
                      (if s.dispatcher.routing = [] ∧ plates ≠ [] then 8 else 0) }
              supervisor :=
                { s.links.supervisor with
                  flags :=
                    stepped.links.supervisor.flags |||
                      (if s.starved = false ∧ t.starved = true then 2 else 0) } }) ∧
      t.map =
        { s.map with
          eClosed := edge
          flaws := s.map.flaws.filter fun f => decide (edge ≤ f.lastRow)
          spans := s.map.spans.filter fun x => decide (edge ≤ x.last) } ∧
      (∀ id, c.piece.row = some id → c.cleared = false →
        t.planner = { s.planner with rows := removeRow id s.planner.rows }) ∧
      (c.piece.row = none ∨ c.cleared = true → t.planner = s.planner) ∧
      { t with
        grader := s.grader
        dispatcher := s.dispatcher
        production := s.production
        accounts := s.accounts
        links := s.links
        map := s.map
        planner := s.planner } = s

/-- O42. The grade of a plate, and its density. -/
def Obligations.GradeAndDensityOfAPlate : Prop :=
  ∀ (g : Limits) (critical major dens sum area : Nat) (unverified : Bool),
    (0 < critical → gradeOf g critical major dens unverified = .x) ∧
      (critical = 0 → major = 0 → dens ≤ g.da → unverified = false → gradeOf g critical major dens unverified = .a) ∧
      (critical = 0 → ¬(major = 0 ∧ dens ≤ g.da ∧ unverified = false) → major ≤ g.nb → dens ≤ g.db →
        gradeOf g critical major dens unverified = .b) ∧
      (critical = 0 → ¬(major = 0 ∧ dens ≤ g.da ∧ unverified = false) → ¬(major ≤ g.nb ∧ dens ≤ g.db) →
        gradeOf g critical major dens unverified = .c) ∧
      density sum area = min 65535 (sum * 1000000 / area)

/-- O43. The accounting step of an order plate: in_flight falls by 1, a plate that goes to the order is delivered, and the
OPEN order whose delivered reaches wanted becomes FILLED, with FILLED raised. -/
def Obligations.OrderPlateIsAccounted : Prop :=
  ∀ (s : State) (id : Nat) (o : Order) (delivers : Bool), s.production.order id = some o →
    let delivered := if delivers then o.delivered + 1 else o.delivered
    let fills := delivers = true ∧ o.state = .opened ∧ delivered = o.wanted
    let t := accountPlate id delivers s
    (fills →
        t.production.order id = some { o with inFlight := o.inFlight - 1, delivered := delivered, state := .filled } ∧
          t.links = { s.links with supervisor := { s.links.supervisor with flags := s.links.supervisor.flags ||| 1 } }) ∧
      (¬fills →
        t.production.order id = some { o with inFlight := o.inFlight - 1, delivered := delivered } ∧
          t.links = s.links) ∧
      ∀ other, other ≠ id → t.production.order other = s.production.order other

/-! ## Modes -/

/-- O44. MODE in every state: a read changes nothing; in RUN and CULL a request for either sets or cancels the switch; in
SETUP a request for SETUP changes nothing; the reply names the mode in force and the mode of the next opening. -/
def Obligations.ModeRequestsSetTheSwitch : Prop :=
  ∀ (s : State) (b : Body), Working s →
    let words := fun t : State => [word t.mode.code, word (t.switch.getD t.mode).code]
    exec (.modeRead .supervisor 3 b) s = .next (transferred .supervisor b 0x30 (Reply.done (words s)) s) ∧
      (∀ arg : Byte, 3 < arg.toNat →
        exec (.modeRead .supervisor arg b) s = .next (refusedFor .supervisor b 0x30 .range s)) ∧
      (s.mode = .setup →
        exec (.modeSetup .supervisor b) s = .next (transferred .supervisor b 0x30 (Reply.done (words s)) s)) ∧
      (s.mode ≠ .setup →
        let run := { s with switch := if s.mode = .run then none else some .run }
        let cull := { s with switch := if s.mode = .cull then none else some .cull }
        exec (.modeRun .supervisor b) s = .next (transferred .supervisor b 0x30 (Reply.done (words run)) run) ∧
          exec (.modeCull .supervisor b) s = .next (transferred .supervisor b 0x30 (Reply.done (words cull)) cull))

/-- O45. MODE RUN and MODE CULL in SETUP: refused RANGE with the fault words when an entry check fails, and otherwise the mode
entry, with the head cut at the plan start, the deadline compare armed there and the expiry compare watching it. -/
def Obligations.ModeEntryLaysTheHeadCut : Prop :=
  ∀ (s : State) (b : Body) (i : Instr) (mode : Mode), Working s → s.mode = .setup →
    (i = .modeRun .supervisor b ∧ mode = .run) ∨ (i = .modeCull .supervisor b ∧ mode = .cull) →
    let c := s.conf
    let faults := (if c.dCommit < c.dCut then 0 else 1) + (if c.dCommit / c.cmin + 4 ≤ c.q then 0 else 2) +
      (if ∀ n : Fin 12, c.lanes[n].xl < c.lanes[n].xr then 0 else 4) + (if c.netZone.xl < c.netZone.xr then 0 else 8)
    (faults ≠ 0 →
        exec i s =
          .next (transferred .supervisor b 0x30 ⟨.refused, .range, [word faults, word (laneFaults c.lanes)]⟩ s)) ∧
      (faults = 0 → s.dispatcher.cuts = [] →
        let start := max (s.travel.p + c.dCommit - c.dCut) s.map.eClosed
        ∃ t, exec i s = .next t ∧ t.mode = mode ∧ t.switch = none ∧
          t.planner = { s.planner with state := .armed, s := start } ∧
          t.dispatcher.cuts = [⟨s.dispatcher.nextSeq, start, .head, none, none, .queued⟩] ∧
          t.dispatcher.headPos = start ∧
          (s.travel.p < start + c.dCut - c.dCommit → t.travel.deadline = some start) ∧
          (start + c.dCut - c.dCommit ≤ s.travel.p → t.travel.deadlineRaised = some start) ∧
          ExpiryFollowsHead s.travel.expiryRaised t ∧
          (∀ l : Link, (t.link l).flags &&& 128 = 128) ∧ t.links.cutter.flags &&& 1 = 1 ∧
          (mode = .run → activeOrder s.production.orders = none → t.links.supervisor.flags &&& 2 = 2) ∧
          (s.links.staleArmed = true → c.staleDistance ≠ 0 → c.staleDistance < s.travel.p - s.map.w →
            t.links.gantry.flags &&& 2 = 2 ∧ t.links.staleArmed = false) ∧
          t.links.supervisor.pending = ⟨0x3000, [word mode.code, word mode.code]⟩ ∧
          t.travel.p = s.travel.p ∧ t.conf = c ∧ t.map = s.map ∧ t.production = s.production ∧ t.grader = s.grader ∧
          t.accounts = s.accounts ∧ t.recipes = s.recipes ∧ t.intake = s.intake ∧ t.refs = s.refs)

/-- O46. MODE SETUP in RUN or CULL, and RESTART in every mode, make line clear: what the part held of the ribbon is gone, W
and E_closed are P, and the configuration, the tables, the counters and the accounts stay. MODE SETUP raises FLUSH and MODE
and keeps the orders; RESTART empties the order list and clears every link. -/
def Obligations.LineClearForgetsTheRibbon : Prop :=
  ∀ (s : State) (arg : Byte) (b : Body), Working s →
    let cleared := fun t : State =>
      RibbonEmpty t ∧ t.mode = .setup ∧ t.switch = none ∧ t.assembler.assembly = 0 ∧
        t.map.w = s.travel.p ∧ t.map.eClosed = s.travel.p ∧ t.map.nextNumber = s.map.nextNumber ∧
        t.travel.p = s.travel.p ∧ t.travel.remainder = s.travel.remainder ∧ t.travel.stopped = s.travel.stopped ∧
        t.travel.seconds = s.travel.seconds ∧ t.travel.ms = s.travel.ms ∧ t.conf = s.conf ∧ t.refs = s.refs ∧
        t.production.patterns = s.production.patterns ∧ t.recipes = s.recipes ∧ t.planner.s = s.planner.s ∧
        t.planner.nextRowId = s.planner.nextRowId ∧ t.dispatcher.nextSeq = s.dispatcher.nextSeq ∧
        t.dispatcher.headPos = s.dispatcher.headPos ∧ t.dispatcher.routing = s.dispatcher.routing ∧
        t.dispatcher.missed = s.dispatcher.missed ∧ t.dispatcher.expired = s.dispatcher.expired ∧
        t.dispatcher.routeLost = s.dispatcher.routeLost ∧ t.grader.log = s.grader.log ∧
        t.grader.nextPlate = s.grader.nextPlate ∧ t.accounts = s.accounts ∧
        t.intake.received = s.intake.received ∧ t.intake.dropped = s.intake.dropped ∧
        t.intake.highWater = s.intake.highWater ∧ t.intake.overflow = s.intake.overflow ∧
        t.links.staleArmed = s.links.staleArmed
    (s.mode ≠ .setup →
        ∃ t, exec (.modeSetup .supervisor b) s = .next t ∧ cleared t ∧
          t.production.orders = s.production.orders.map (fun o => { o with inFlight := 0 }) ∧
          t.links.gantry.flags = s.links.gantry.flags ||| 128 ∧
          t.links.cutter.flags = s.links.cutter.flags ||| 4 ||| 128 ∧
          t.links.supervisor.flags = s.links.supervisor.flags ||| 128 ∧
          (∀ l : Link, (t.link l).mask = (s.link l).mask) ∧ t.links.gantry.pending = s.links.gantry.pending ∧
          t.links.cutter.pending = s.links.cutter.pending ∧ t.links.supervisor.pending = ⟨0x3000, [0, 0]⟩) ∧
      ∃ t, exec (.restart .supervisor arg b) s = .next t ∧ cleared t ∧ t.production.orders = [] ∧
        ∀ l : Link, (t.link l).flags = 0 ∧ (t.link l).mask = 0 ∧ (t.link l).pending = ⟨0, []⟩ ∧ t.attention l = false

/-! ## Accounts -/

/-- O47. TIME sets the time of day without a step; SHIFTS writes the shift start table, refused RANGE for an entry out of
range and DUPLICATE for two enabled entries of one start, and reads it; SHIFT_CLOSE closes the shift with cause 4; REPORT
returns a report in the 49 words of R178. -/
def Obligations.TimeAndShiftCommands : Prop :=
  ∀ (s : State) (arg : Byte) (b : Body), Working s →
    let seconds := value32At b.data 0
    let flag := fun x : Bool => if x then (1 : Word) else 0
    let tableWords := fun t : Vector ShiftStart 4 =>
      [flag t[0].enabled] ++ words32 t[0].start ++ [flag t[1].enabled] ++ words32 t[1].start ++
        [flag t[2].enabled] ++ words32 t[2].start ++ [flag t[3].enabled] ++ words32 t[3].start
    let sound := ∀ i : Fin 4, valueAt b.data (3 * i) ≤ 1 ∧ value32At b.data (3 * i + 1) ≤ 86399
    let distinct := ∀ i j : Fin 4, i < j → valueAt b.data (3 * i) = 1 → valueAt b.data (3 * j) = 1 →
      value32At b.data (3 * i + 1) ≠ value32At b.data (3 * j + 1)
    let reportWords := fun r : Report =>
      let c := r.counts
      [word r.shift] ++ words32 r.closeTime ++ [word r.cause] ++ words32 c.runSeconds ++ words32 c.stoppedSeconds ++
        [word c.lineStops, word c.byGrade[0], word c.byGrade[1], word c.byGrade[2], word c.byGrade[3], word c.byDest[0],
          word c.byDest[1], word c.byDest[2], word c.byDest[3], word c.byDest[4], word c.byDest[5]] ++
        words32 c.cullLength ++ words32 c.productArea ++ words32 c.totalArea ++
        [word r.yield, word c.byKind[0], word c.byKind[1], word c.byKind[2], word c.byKind[3], word c.byKind[4],
          word c.byKind[5], word c.byKind[6], word c.byKind[7], word c.byClass[0], word c.byClass[1], word c.byClass[2],
          word c.byClass[3], word c.border, word c.faintDropped, word c.mapFull, word c.forcedCloses, word c.late,
          word c.lateDropped, word c.intakeDrops, word c.blindRows, word c.missed, word c.expired, word c.routeLost]
    (2 ≤ b.data.length → seconds ≤ 86399 →
        exec (.time .supervisor arg b) s =
          .next
            (transferred .supervisor b 0x32 (Reply.done [])
              { s with travel := { s.travel with seconds := seconds, ms := 0 } })) ∧
      (2 ≤ b.data.length → 86399 < seconds →
        exec (.time .supervisor arg b) s = .next (refusedFor .supervisor b 0x32 .range s)) ∧
      (12 ≤ b.data.length → sound → distinct →
        ∃ table : Vector ShiftStart 4,
          (∀ i : Fin 4, table[i] = ⟨valueAt b.data (3 * i) == 1, value32At b.data (3 * i + 1)⟩) ∧
            exec (.shiftsWrite .supervisor b) s =
              .next
                (transferred .supervisor b 0x33 (Reply.done (tableWords table))
                  { s with accounts := { s.accounts with table := table } })) ∧
      (12 ≤ b.data.length → ¬sound →
        exec (.shiftsWrite .supervisor b) s = .next (refusedFor .supervisor b 0x33 .range s)) ∧
      (12 ≤ b.data.length → sound → ¬distinct →
        exec (.shiftsWrite .supervisor b) s = .next (refusedFor .supervisor b 0x33 .duplicate s)) ∧
      exec (.shiftsRead .supervisor 1 b) s =
        .next (transferred .supervisor b 0x33 (Reply.done (tableWords s.accounts.table)) s) ∧
      (1 < arg.toNat → exec (.shiftsRead .supervisor arg b) s = .next (refusedFor .supervisor b 0x33 .range s)) ∧
      exec (.shiftClose .supervisor arg b) s =
        .next
          (transferred .supervisor b 0x3E
            (Reply.done
              ([word s.accounts.shift] ++ words32 s.travel.seconds ++ [word s.accounts.counts.yield]))
            (closeShift s.travel.seconds 4 s)) ∧
      (∀ r : Report, arg.toNat ≤ 3 → s.accounts.reports[arg.toNat]? = some r →
        exec (.report .supervisor arg b) s =
          .next (transferred .supervisor b 0x3F (Reply.done (reportWords r)) s)) ∧
      (arg.toNat ≤ 3 → s.accounts.reports.length ≤ arg.toNat →
        exec (.report .supervisor arg b) s = .next (refusedFor .supervisor b 0x3F .notFound s)) ∧
      (3 < arg.toNat → exec (.report .supervisor arg b) s = .next (refusedFor .supervisor b 0x3F .range s))

/-! ## Production tables -/

/-- O48. PAT writes a pattern that meets R102, or makes it undefined: refused RANGE for an argument or a count out of range,
BUSY outside SETUP while a committed row uses it, BUSY for an undefinition while an order names it, and RANGE for columns
that do not meet R102; it reads one with bit 7. ORD_ADD appends or inserts an order: refused RANGE for a field out of range,
DUPLICATE for an id in the list, and FULL at sixteen orders. -/
def Obligations.PatternsAndOrdersAreWritten : Prop :=
  (∀ (k : Nat) (ws : List Word), 2 * k ≤ ws.length →
      (columnsOf k ws).length = k ∧
        ∀ i, i < k → (columnsOf k ws)[i]? = some ⟨valueAt ws (2 * i), valueAt ws (2 * i + 1)⟩) ∧
    (∀ (s : State) (arg : Byte) (i : Fin 8) (b : Body), Working s →
      let k := valueAt b.data 0
      let columns := columnsOf k (b.data.drop 1)
      let fits := (∀ c ∈ columns, s.conf.netZone.xl ≤ c.xl ∧ c.xr ≤ s.conf.netZone.xr ∧ c.xl + 100 ≤ c.xr) ∧
        columns.Pairwise fun c d => c.xr ≤ d.xl
      let used := s.mode ≠ .setup ∧ ∃ r ∈ s.planner.rows, r.pattern = some i ∧ r.left = false
      let named := ∃ o ∈ s.production.orders, o.pattern = i
      let words := fun cs : List Across => word cs.length :: cs.flatMap fun c => [word c.xl, word c.xr]
      let write := exec (.patWrite .supervisor arg b) s
      (1 + 2 * k ≤ b.data.length →
          (arg.toNat < 128 → 8 ≤ arg.toNat ∨ 4 < k → write = .next (refusedFor .supervisor b 0x34 .range s)) ∧
            (arg.toNat = i.val → k ≤ 4 →
              (used → write = .next (refusedFor .supervisor b 0x34 .busy s)) ∧
                (¬used → k = 0 → named → write = .next (refusedFor .supervisor b 0x34 .busy s)) ∧
                (¬used → (k = 0 → ¬named) → ¬fits → write = .next (refusedFor .supervisor b 0x34 .range s)) ∧
                (¬used → (k = 0 → ¬named) → fits →
                  write =
                    .next
                      (transferred .supervisor b 0x34 (Reply.done (words columns))
                        { s with
                          production := { s.production with patterns := s.production.patterns.set i columns } })))) ∧
        (arg.toNat = 128 + i.val →
          exec (.patRead .supervisor arg b) s =
            .next (transferred .supervisor b 0x34 (Reply.done (words s.production.patterns[i])) s)) ∧
        (136 ≤ arg.toNat →
          exec (.patRead .supervisor arg b) s = .next (refusedFor .supervisor b 0x34 .range s))) ∧
    ∀ (s : State) (arg : Byte) (b : Body), Working s → 7 ≤ b.data.length →
      let v := fun i => valueAt b.data i
      let orders := s.production.orders
      let sound := fun (i : Fin 8) (g : Grade) =>
        1 ≤ v 0 ∧ s.conf.cmin ≤ v 1 ∧ v 1 ≤ 7000 ∧ (v 2 = 0 ∨ (s.conf.cmin ≤ v 2 ∧ v 2 < v 1)) ∧ v 3 = i.val ∧
          s.production.patterns[i] ≠ [] ∧ v 4 = g.code ∧ g ≠ .x ∧ 1 ≤ v 5 ∧ v 6 ≤ 15
      let add := exec (.ordAdd .supervisor arg b) s
      (1 < arg.toNat ∨ (∀ i g, ¬sound i g) → add = .next (refusedFor .supervisor b 0x35 .range s)) ∧
        ∀ i g, sound i g → arg.toNat ≤ 1 →
          let o : Order :=
            { id := v 0
              lp := v 1
              short := if v 2 = 0 then none else some (v 2)
              pattern := i
              grade := g
              wanted := v 5
              stacker := v 6
              delivered := 0
              inFlight := 0
              state := .opened }
          let added := fun (orders : List Order) (position : Word) =>
            transferred .supervisor b 0x35 (Reply.done [position])
              { s with production := { s.production with orders := orders } }
          ((∃ x ∈ orders, x.id = o.id) → add = .next (refusedFor .supervisor b 0x35 .duplicate s)) ∧
            ((∀ x ∈ orders, x.id ≠ o.id) → 16 ≤ orders.length →
              add = .next (refusedFor .supervisor b 0x35 .full s)) ∧
            ((∀ x ∈ orders, x.id ≠ o.id) → orders.length < 16 →
              (arg = 0 → add = .next (added (orders ++ [o]) (word orders.length))) ∧
                (arg = 1 → add = .next (added (o :: orders) 0)))

/-- O49. ORD_CLOSE closes the order of an id, which may make STARVED rise; ORD_DROP removes an order that is not OPEN and has
no plates in flight; ORD_READ reads the order of an id or at a position, in the fifteen words of R101. That a decision in
progress for the dropped order takes an order added again under the same id for another is how the model holds R128
(log 19, DEDUCED). -/
def Obligations.OrdersAreClosedDroppedAndRead : Prop :=
  (∀ (s : State) (arg : Byte) (b : Body) (before after : List Order) (o : Order), Working s → 1 ≤ b.data.length →
    s.production.orders = before ++ o :: after → (∀ x ∈ before, x.id ≠ o.id) →
    let words : List Word :=
      [word o.id, word o.lp, word (o.short.getD 0), word o.pattern, word o.grade.code, word o.wanted, word o.delivered,
        word o.inFlight, word (o.wanted - o.delivered - o.inFlight), word o.stacker,
        (match o.state with
          | .opened => 0
          | .filled => 1
          | .closed => 2),
        word before.length, word s.production.orders.length,
        (if (activeOrder s.production.orders).any (fun x => x.id == o.id) then 1 else 0), if s.starved then 1 else 0]
    let returned := Host.Outcome.next (transferred .supervisor b 0x38 (Reply.done words) s)
    (valueAt b.data 0 = o.id →
        let closed : State :=
          { s with
            production :=
              { s.production with
                orders := before ++ { o with wanted := o.delivered + o.inFlight, state := .closed } :: after } }
        exec (.ordClose .supervisor arg b) s =
          .next
            (transferred .supervisor b 0x36 (Reply.done [word (o.delivered + o.inFlight), word o.delivered])
              (if s.starved = false ∧ closed.starved = true then
                { closed with
                  links :=
                    { s.links with
                      supervisor := { s.links.supervisor with flags := s.links.supervisor.flags ||| 2 } } }
              else closed))) ∧
      (valueAt b.data 0 = o.id → o.state ≠ .opened → o.inFlight = 0 →
        exec (.ordDrop .supervisor arg b) s =
          .next
            (transferred .supervisor b 0x37 (Reply.done [])
              { s with
                production := { s.production with orders := before ++ after }
                planner :=
                  { s.planner with
                    course :=
                      match s.planner.course with
                      | some (.product c) => some (.product { c with present := c.present && c.order != o.id })
                      | other => other } })) ∧
      (valueAt b.data 0 = o.id → o.state = .opened ∨ 0 < o.inFlight →
        exec (.ordDrop .supervisor arg b) s = .next (refusedFor .supervisor b 0x37 .busy s)) ∧
      (valueAt b.data 0 = o.id → exec (.ordRead .supervisor 0 b) s = returned) ∧
      (valueAt b.data 0 = before.length → exec (.ordRead .supervisor 1 b) s = returned)) ∧
    ∀ (s : State) (arg : Byte) (b : Body), Working s → 1 ≤ b.data.length →
      (s.production.orders.length ≤ valueAt b.data 0 →
        exec (.ordRead .supervisor 1 b) s = .next (refusedFor .supervisor b 0x38 .notFound s)) ∧
      (1 < arg.toNat → exec (.ordRead .supervisor arg b) s = .next (refusedFor .supervisor b 0x38 .range s)) ∧
      ((∀ x ∈ s.production.orders, x.id ≠ valueAt b.data 0) →
        exec (.ordClose .supervisor arg b) s = .next (refusedFor .supervisor b 0x36 .notFound s) ∧
          exec (.ordDrop .supervisor arg b) s = .next (refusedFor .supervisor b 0x37 .notFound s) ∧
          exec (.ordRead .supervisor 0 b) s = .next (refusedFor .supervisor b 0x38 .notFound s))

/-- O50. SAMPLE outside SETUP: a request, raised to the plan start when it lies below it, is merged into the nearest
position closer than Ls, and otherwise joins the list in order, or is refused FULL; a cancel removes a position that is in
the list; a read returns the list; an argument above 2 is refused RANGE (that its row is the read's: log 13, DEDUCED). That a decision in progress for the cancelled position takes a position requested again
for another is how the model holds R113 and R123 (log 19, DEDUCED). -/
def Obligations.SamplesAreRequestedAndCancelled : Prop :=
  ∀ (s : State) (b : Body), Working s → s.mode ≠ .setup →
    let asked := value32At b.data 0
    let m := max asked s.planner.s
    let samples := s.production.samples
    let reply := fun (position count : Nat) =>
      if asked < s.planner.s then Reply.adjusted .clamped (words32 position ++ [word count])
      else Reply.done (words32 position ++ [word count])
    (2 ≤ b.data.length → (∀ e ∈ samples, m + s.conf.ls ≤ e ∨ e + s.conf.ls ≤ m) → 1 ≤ s.conf.ls →
        (samples.length < 4 →
            ∃ before after, samples = before ++ after ∧ (∀ e ∈ before, e ≤ m) ∧ (∀ e, after.head? = some e → m < e) ∧
              exec (.sampleRequest .supervisor b) s =
                .next
                  (transferred .supervisor b 0x3B (reply m (samples.length + 1))
                    { s with production := { s.production with samples := before ++ m :: after } })) ∧
          (4 ≤ samples.length →
            exec (.sampleRequest .supervisor b) s = .next (refusedFor .supervisor b 0x3B .full s))) ∧
      (∀ before after e, 2 ≤ b.data.length → samples = before ++ e :: after → m < e + s.conf.ls → e < m + s.conf.ls →
        (∀ x ∈ before, (m - e) + (e - m) < (m - x) + (x - m)) → (∀ x ∈ after, (m - e) + (e - m) ≤ (m - x) + (x - m)) →
        exec (.sampleRequest .supervisor b) s =
          .next (transferred .supervisor b 0x3B (reply e samples.length) s)) ∧
      (2 ≤ b.data.length → asked ∈ samples →
        exec (.sampleCancel .supervisor b) s =
          .next
            (transferred .supervisor b 0x3B (Reply.done [])
              { s with
                production := { s.production with samples := samples.erase asked }
                planner :=
                  { s.planner with
                    course :=
                      match s.planner.course with
                      | some (.sample e present) => some (.sample e (present && e != asked))
                      | other => other } })) ∧
      (2 ≤ b.data.length → asked ∉ samples →
        exec (.sampleCancel .supervisor b) s = .next (refusedFor .supervisor b 0x3B .notFound s)) ∧
      exec (.sampleRead .supervisor 2 b) s =
        .next
          (transferred .supervisor b 0x3B (Reply.done (word samples.length :: samples.flatMap words32)) s) ∧
      ∀ arg : Byte, 2 < arg.toNat →
        exec (.sampleRead .supervisor arg b) s = .next (refusedFor .supervisor b 0x3B .range s)

/-- O51. RCP writes each section of a disarmed pending recipe, refused RANGE when it fails a check, and copies the current
recipe into it; while it is armed every write is refused BUSY; it reads each section of either recipe. RCP_ARM is refused
BUSY while armed; in SETUP it promotes; in RUN and CULL it arms the recipe at a position clamped to W, and promotes at once
when W has reached the position and no open flaw begins before it; argument 1 disarms. An argument that names no section, no
recipe or no action is refused RANGE (that its row is this one: log 13, DEDUCED). -/
def Obligations.RecipesAreWrittenAndArmed : Prop :=
  ∀ (s : State) (b : Body), Working s →
    let ws := b.data
    let store := s.recipes
    let e : KindEntry := ⟨valueAt ws 0, valueAt ws 1, valueAt ws 2, valueAt ws 3, valueAt ws 4⟩
    let g : Limits := ⟨valueAt ws 0, valueAt ws 1, valueAt ws 2, valueAt ws 3, valueAt ws 4⟩
    let kindFits := e.gate ≤ 255 ∧ e.weight ≤ 255 ∧ 1 ≤ e.smin ∧ e.smin ≤ e.smaj ∧ e.smaj ≤ e.scrit
    let limitsFit := g.da ≤ g.db ∧ g.nb ≤ 15 ∧ g.edge ≤ 255 ∧ g.fe ≤ 64
    let kindWords := fun e : KindEntry => [word e.gate, word e.smin, word e.smaj, word e.scrit, word e.weight]
    let limitWords := fun g : Limits => [word g.da, word g.db, word g.nb, word g.edge, word g.fe]
    let policyWords := fun p : BlindPolicy => [match p with
      | .cull => (0 : Word)
      | .pass => 1]
    let storeWords := [word store.generation, if store.armedAt.isSome then 1 else 0] ++ words32 (store.armedAt.getD 0)
    let written := fun (r : Recipe) (words : List Word) =>
      Host.Outcome.next
        (transferred .supervisor b 0x39 (Reply.done words) { s with recipes := { store with pending := r } })
    let returned := fun words : List Word => Host.Outcome.next (transferred .supervisor b 0x39 (Reply.done words) s)
    let refused := fun why : Reason => Host.Outcome.next (refusedFor .supervisor b 0x39 why s)
    let read := fun n : Nat => exec (.rcpRead .supervisor (BitVec.ofNat 8 n) b) s
    (store.armedAt = none →
        (∀ (kind : Fin 8) (arg : Byte), arg.toNat = kind.val → 5 ≤ ws.length →
            (kindFits →
                exec (.rcpWriteKind .supervisor arg b) s =
                  written { store.pending with kinds := store.pending.kinds.set kind e } (kindWords e)) ∧
              (¬kindFits → exec (.rcpWriteKind .supervisor arg b) s = refused .range)) ∧
          (5 ≤ ws.length →
            (limitsFit →
                exec (.rcpWriteLimits .supervisor b) s = written { store.pending with limits := g } (limitWords g)) ∧
              (¬limitsFit → exec (.rcpWriteLimits .supervisor b) s = refused .range)) ∧
          (1 ≤ ws.length →
            (∀ p : BlindPolicy, [BitVec.ofNat 16 (valueAt ws 0)] = policyWords p →
                exec (.rcpWritePolicy .supervisor b) s = written { store.pending with policy := p } (policyWords p)) ∧
              (1 < valueAt ws 0 → exec (.rcpWritePolicy .supervisor b) s = refused .range)) ∧
          exec (.rcpCopy .supervisor b) s = written store.current storeWords) ∧
      (store.armedAt ≠ none →
        (∀ arg : Byte, arg.toNat ≤ 7 → 5 ≤ ws.length → exec (.rcpWriteKind .supervisor arg b) s = refused .busy) ∧
          (5 ≤ ws.length → exec (.rcpWriteLimits .supervisor b) s = refused .busy) ∧
          (1 ≤ ws.length → exec (.rcpWritePolicy .supervisor b) s = refused .busy) ∧
          exec (.rcpCopy .supervisor b) s = refused .busy) ∧
      (∀ arg : Byte, 11 ≤ arg.toNat → arg.toNat < 64 → exec (.rcpWriteKind .supervisor arg b) s = refused .range) ∧
      (∀ kind : Fin 8,
        read (64 + kind) = returned (kindWords store.pending.kinds[kind]) ∧
          read (128 + kind) = returned (kindWords store.current.kinds[kind])) ∧
      (read 72 = returned (limitWords store.pending.limits) ∧ read 136 = returned (limitWords store.current.limits)) ∧
      (read 73 = returned (policyWords store.pending.policy) ∧ read 137 = returned (policyWords store.current.policy)) ∧
      (read 74 = returned storeWords ∧ read 138 = returned storeWords) ∧
      (∀ n : Nat, 64 ≤ n → n < 256 → 11 ≤ n % 64 ∨ 192 ≤ n → read n = refused .range) ∧
      (let a := value32At ws 0
        let armed := max a s.map.w
        let promoted : RecipeStore :=
          ⟨store.pending, store.pending, if store.generation < 255 then store.generation + 1 else 0, none⟩
        let raised := { s.links with
          supervisor := { s.links.supervisor with flags := s.links.supervisor.flags ||| 64 } }
        let passes := armed ≤ s.map.w ∧ ∀ x ∈ s.assembler.openFlaws, armed ≤ x.flaw.firstRow
        let arm := exec (.rcpArm .supervisor 0 b) s
        let reply := fun last : Word =>
          if a < s.map.w then Reply.adjusted .clamped (words32 armed ++ [last]) else Reply.done (words32 armed ++ [last])
        2 ≤ ws.length →
        (store.armedAt ≠ none → arm = .next (refusedFor .supervisor b 0x3A .busy s)) ∧
          (store.armedAt = none → s.mode = .setup →
            arm =
              .next
                (transferred .supervisor b 0x3A (Reply.done (words32 a ++ [1]))
                  { s with recipes := promoted, links := raised })) ∧
          (store.armedAt = none → s.mode ≠ .setup → passes →
            arm =
              .next (transferred .supervisor b 0x3A (reply 1) { s with recipes := promoted, links := raised })) ∧
          (store.armedAt = none → s.mode ≠ .setup → ¬passes →
            arm =
              .next
                (transferred .supervisor b 0x3A (reply 0) { s with recipes := { store with armedAt := some armed } }))) ∧
      (∀ arg : Byte, 1 < arg.toNat →
        exec (.rcpArm .supervisor arg b) s = .next (refusedFor .supervisor b 0x3A .range s)) ∧
      exec (.rcpDisarm .supervisor b) s =
        .next
          (transferred .supervisor b 0x3A (Reply.done [0, 0, 0])
            { s with recipes := { store with armedAt := none } })

/-! ## Reads of the map, the log and the window -/

/-- O52. FLAW, PLATE and WINDOW return what they name, in the word order of R92, R168 and R93, and change nothing; what is not
there is refused NOTFOUND, EMPTY or GONE, and an undefined argument RANGE. -/
def Obligations.MapAndLogReads : Prop :=
  ∀ (s : State) (arg : Byte) (b : Body), Working s →
    let n := valueAt b.data 0
    let flag := fun x : Bool => if x then (1 : Nat) else 0
    let target := match s.travel.deadline with
      | some start =>
        if start + s.conf.dCut - s.conf.dCommit ≤ 4294967295 then
          [BitVec.ofNat 16 ((start + s.conf.dCut - s.conf.dCommit) / 65536),
            BitVec.ofNat 16 (start + s.conf.dCut - s.conf.dCommit)]
        else [0xFFFF, 0xFFFF]
      | none => [0xFFFF, 0xFFFF]
    let windowed : List Word :=
      words32 s.planner.s ++ words32 s.map.w ++ words32 s.travel.p ++ target ++
        [word s.dispatcher.cuts.length, word s.planner.rows.length] ++ words32 s.map.eClosed ++
        [word s.map.flaws.length, word s.map.spans.length, word s.assembler.openFlaws.length, word (flag s.starved)] ++
        s.map.spans.flatMap fun x => words32 x.first ++ words32 x.last ++ [word x.causes.toNat]
    let flawed := fun f : FlawRecord =>
      [word f.number] ++ words32 f.firstRow ++ words32 f.lastRow ++
        [word f.xMin, word f.xMax, word f.kind.code, word f.cls.code, word f.contrast, word f.size, word f.points,
          word f.area, word f.generation, word (flag f.seenT + 2 * flag f.seenR),
          word (flag f.forced + 2 * flag f.late + 4 * flag f.clipped + 8 * flag f.unsettled)]
    let plated := fun e : PlateEntry =>
      [word e.id, word e.row, word (e.order.getD 0), word e.column, word e.kind.code] ++ words32 e.start ++
        words32 e.stop ++
        [word e.width, word e.grade.code, word e.dest,
          word (flag e.unverified + 2 * flag e.forced + 4 * flag e.surplus + 8 * flag e.short + 16 * flag e.sample),
          word e.faint, word e.minor, word e.major, word e.critical, word e.sum, word e.density, word e.shift,
          word e.flaws.length, word e.more] ++
        e.flaws.flatMap fun x =>
          [word x.number, word x.kind.code, word x.cls.code, word x.points, word x.along, word x.cross]
    let flawReturned := fun f : FlawRecord =>
      Host.Outcome.next (transferred .supervisor b 0x3C (Reply.done (flawed f)) s)
    let flawRefused := fun why : Reason => Host.Outcome.next (refusedFor .supervisor b 0x3C why s)
    let plateReturned := fun e : PlateEntry =>
      Host.Outcome.next (transferred .supervisor b 0x3D (Reply.done (plated e)) s)
    let plateRefused := fun why : Reason => Host.Outcome.next (refusedFor .supervisor b 0x3D why s)
    exec (.window .supervisor arg b) s = .next (transferred .supervisor b 0x40 (Reply.done windowed) s) ∧
      (1 ≤ b.data.length →
        (∀ (before after : List FlawRecord) (f : FlawRecord), s.map.flaws = before ++ f :: after → f.number = n →
            (∀ g ∈ before, g.number ≠ n) →
            exec (.flaw .supervisor 0 b) s = flawReturned f ∧
              (∀ g rest, after = g :: rest → exec (.flaw .supervisor 1 b) s = flawReturned g) ∧
              (after = [] → exec (.flaw .supervisor 1 b) s = flawRefused .empty)) ∧
          ((∀ g ∈ s.map.flaws, g.number ≠ n) →
            exec (.flaw .supervisor 0 b) s = flawRefused .notFound ∧
              exec (.flaw .supervisor 1 b) s = flawRefused .notFound) ∧
          (∀ f rest, s.map.flaws = f :: rest → exec (.flaw .supervisor 2 b) s = flawReturned f) ∧
          (s.map.flaws = [] → exec (.flaw .supervisor 2 b) s = flawRefused .empty) ∧
          (2 < arg.toNat → exec (.flaw .supervisor arg b) s = flawRefused .range) ∧
          (∀ (before after : List PlateEntry) (e : PlateEntry), s.grader.log = before ++ e :: after → e.id = n →
            (∀ x ∈ before, x.id ≠ n) →
            exec (.plate .supervisor 0 b) s = plateReturned e) ∧
          (∀ e : PlateEntry, s.grader.log.getLast? = some e → exec (.plate .supervisor 1 b) s = plateReturned e) ∧
          (s.grader.log = [] → exec (.plate .supervisor 1 b) s = plateRefused .empty) ∧
          ((∀ e ∈ s.grader.log, e.id ≠ n) →
            exec (.plate .supervisor 0 b) s =
              plateRefused
                (if n = 0 ∨ (s.grader.wrapped = false ∧ s.grader.nextPlate ≤ n) then .notFound else .gone)) ∧
          (1 < arg.toNat → exec (.plate .supervisor arg b) s = plateRefused .range))

/-! ## Laws of the state -/

/-- O53. The laws of the statements that follow hold at reset. -/
def Obligations.LawsHoldAtReset : Prop :=
  WatermarkLaw State.reset ∧ CapacityLaw State.reset ∧ FlawMapLaw State.reset ∧ BlindSpanLaw State.reset ∧
    PlateCountLaw State.reset ∧ SetupLaw State.reset ∧ SwitchLaw State.reset ∧ PlanLaw State.reset

/-- O54. In every step from a state where it holds, W stays at or below P, P and its remainder in range, and no MARK waits
ahead of P. -/
def Obligations.EveryStepKeepsTheWatermarkLaw : Prop :=
  ∀ s t : State, WatermarkLaw s → step s = .next t → WatermarkLaw t

/-- O55. Every step keeps the intake queue, the order list, the sample list, the row table, the routing list, the close queue,
the plate log and the report store within their capacities, and the intake counters and the next plate id in their ranges.
The cut queue is not among them: an append to it makes no test of Q (log 22). -/
def Obligations.EveryStepKeepsTheCapacities : Prop :=
  ∀ s t : State, CapacityLaw s → step s = .next t → CapacityLaw t

/-- O56. Every step keeps the flaw map in order, its numbers distinct and in range, and no record behind E_closed. -/
def Obligations.EveryStepKeepsTheFlawMapOrdered : Prop :=
  ∀ s t : State, FlawMapLaw s → step s = .next t → FlawMapLaw t

/-- O57. Every step keeps the blind spans ordered, disjoint, non-adjacent, at most eight, and none behind E_closed. -/
def Obligations.EveryStepKeepsTheBlindSpansApart : Prop :=
  ∀ s t : State, BlindSpanLaw s → step s = .next t → BlindSpanLaw t

/-- O58. Every step keeps plates by grade equal in sum to plates by destination class, in the running counters and in every
report. -/
def Obligations.EveryStepKeepsThePlateCountsEqual : Prop :=
  ∀ s t : State, PlateCountLaw s → step s = .next t → PlateCountLaw t

/-- O59. Every step keeps SETUP free of everything held of the ribbon, and the switch absent or asking for the other of RUN
and CULL. -/
def Obligations.EveryStepKeepsSetupEmptyAndTheSwitchLegal : Prop :=
  ∀ s t : State, SetupLaw s → SwitchLaw s → step s = .next t → SetupLaw t ∧ SwitchLaw t

/-- O60. Every step keeps the rows contiguous and at least Cmin long up to the plan start, and the cuts in order up to it. -/
def Obligations.EveryStepKeepsThePlanInOrder : Prop :=
  ∀ s t : State, PlanLaw s → step s = .next t → PlanLaw t
end

