-- ==== Sys2Proof/Laws/State.lean ====
section
/-!
SUPPORT. What the updates of the part leave alone, one lemma per field and update, and what they write. A proof that meets
one of these updates cites the lemma and never unfolds the record.
-/

namespace Sys2Proof.Machine

/-! ## One link -/

@[simp] theorem link_setLink (s : State) (l : Link) (x : LinkState) : (s.setLink l x).link l = x := by cases l <;> rfl

theorem link_setLink_ne (s : State) {l k : Link} (h : k ≠ l) (x : LinkState) : (s.setLink l x).link k = s.link k := by
  cases l <;> cases k <;> first | rfl | exact absurd rfl h

@[simp] theorem setLink_setLink (s : State) (l : Link) (x y : LinkState) : (s.setLink l x).setLink l y = s.setLink l y := by
  cases l <;> rfl

@[simp] theorem setLink_link (s : State) (l : Link) : s.setLink l (s.link l) = s := by cases l <;> rfl

@[simp] theorem setLink_staleArmed (s : State) (l : Link) (x : LinkState) :
    (s.setLink l x).links.staleArmed = s.links.staleArmed := by cases l <;> rfl

@[simp] theorem setLink_mode (s : State) (l : Link) (x : LinkState) : (s.setLink l x).mode = s.mode := rfl
@[simp] theorem setLink_switch (s : State) (l : Link) (x : LinkState) : (s.setLink l x).switch = s.switch := rfl
@[simp] theorem setLink_inReset (s : State) (l : Link) (x : LinkState) : (s.setLink l x).inReset = s.inReset := rfl
@[simp] theorem setLink_conf (s : State) (l : Link) (x : LinkState) : (s.setLink l x).conf = s.conf := rfl
@[simp] theorem setLink_travel (s : State) (l : Link) (x : LinkState) : (s.setLink l x).travel = s.travel := rfl
@[simp] theorem setLink_intake (s : State) (l : Link) (x : LinkState) : (s.setLink l x).intake = s.intake := rfl
@[simp] theorem setLink_refs (s : State) (l : Link) (x : LinkState) : (s.setLink l x).refs = s.refs := rfl
@[simp] theorem setLink_assembler (s : State) (l : Link) (x : LinkState) : (s.setLink l x).assembler = s.assembler := rfl
@[simp] theorem setLink_map (s : State) (l : Link) (x : LinkState) : (s.setLink l x).map = s.map := rfl
@[simp] theorem setLink_production (s : State) (l : Link) (x : LinkState) : (s.setLink l x).production = s.production := rfl
@[simp] theorem setLink_recipes (s : State) (l : Link) (x : LinkState) : (s.setLink l x).recipes = s.recipes := rfl
@[simp] theorem setLink_planner (s : State) (l : Link) (x : LinkState) : (s.setLink l x).planner = s.planner := rfl
@[simp] theorem setLink_dispatcher (s : State) (l : Link) (x : LinkState) : (s.setLink l x).dispatcher = s.dispatcher := rfl
@[simp] theorem setLink_grader (s : State) (l : Link) (x : LinkState) : (s.setLink l x).grader = s.grader := rfl
@[simp] theorem setLink_accounts (s : State) (l : Link) (x : LinkState) : (s.setLink l x).accounts = s.accounts := rfl
@[simp] theorem setLink_pending (s : State) (l : Link) (x : LinkState) : (s.setLink l x).pending = s.pending := rfl

/-! ## An event sets its flag -/

@[simp] theorem raise_mode (e : Event) (s : State) : (raise e s).mode = s.mode := rfl
@[simp] theorem raise_switch (e : Event) (s : State) : (raise e s).switch = s.switch := rfl
@[simp] theorem raise_inReset (e : Event) (s : State) : (raise e s).inReset = s.inReset := rfl
@[simp] theorem raise_conf (e : Event) (s : State) : (raise e s).conf = s.conf := rfl
@[simp] theorem raise_travel (e : Event) (s : State) : (raise e s).travel = s.travel := rfl
@[simp] theorem raise_intake (e : Event) (s : State) : (raise e s).intake = s.intake := rfl
@[simp] theorem raise_refs (e : Event) (s : State) : (raise e s).refs = s.refs := rfl
@[simp] theorem raise_assembler (e : Event) (s : State) : (raise e s).assembler = s.assembler := rfl
@[simp] theorem raise_map (e : Event) (s : State) : (raise e s).map = s.map := rfl
@[simp] theorem raise_production (e : Event) (s : State) : (raise e s).production = s.production := rfl
@[simp] theorem raise_recipes (e : Event) (s : State) : (raise e s).recipes = s.recipes := rfl
@[simp] theorem raise_planner (e : Event) (s : State) : (raise e s).planner = s.planner := rfl
@[simp] theorem raise_dispatcher (e : Event) (s : State) : (raise e s).dispatcher = s.dispatcher := rfl
@[simp] theorem raise_grader (e : Event) (s : State) : (raise e s).grader = s.grader := rfl
@[simp] theorem raise_accounts (e : Event) (s : State) : (raise e s).accounts = s.accounts := rfl
@[simp] theorem raise_pending (e : Event) (s : State) : (raise e s).pending = s.pending := rfl

@[simp] theorem raise_staleArmed (e : Event) (s : State) : (raise e s).links.staleArmed = s.links.staleArmed := by
  simp [raise]

/-- Raising an event writes nothing but the flags of its own link. -/
theorem link_raise (e : Event) (s : State) (l : Link) :
    (raise e s).link l =
      if l = e.link then { s.link l with flags := (s.link l).flags ||| flagBit e.flag } else s.link l := by
  by_cases h : l = e.link
  · subst h; simp [raise]
  · simp [raise, h, link_setLink_ne]

/-- A flag that is set stays set when another event is raised. -/
theorem flagSet_raise_of_flagSet {d : Event} {s : State} (e : Event) (h : s.flagSet d = true) :
    (raise e s).flagSet d = true := by
  unfold State.flagSet at *
  rw [link_raise]
  split <;> simp_all

@[simp] theorem raiseMode_travel (s : State) : (raiseMode s).travel = s.travel := rfl
@[simp] theorem raiseMode_map (s : State) : (raiseMode s).map = s.map := rfl
@[simp] theorem raiseMode_conf (s : State) : (raiseMode s).conf = s.conf := rfl

/-! ## The counters -/

@[simp] theorem count_counts (f : Counts → Counts) (s : State) : (s.count f).accounts.counts = f s.accounts.counts := rfl
@[simp] theorem count_shift (f : Counts → Counts) (s : State) : (s.count f).accounts.shift = s.accounts.shift := rfl
@[simp] theorem count_table (f : Counts → Counts) (s : State) : (s.count f).accounts.table = s.accounts.table := rfl
@[simp] theorem count_reports (f : Counts → Counts) (s : State) : (s.count f).accounts.reports = s.accounts.reports := rfl
@[simp] theorem count_mode (f : Counts → Counts) (s : State) : (s.count f).mode = s.mode := rfl
@[simp] theorem count_switch (f : Counts → Counts) (s : State) : (s.count f).switch = s.switch := rfl
@[simp] theorem count_inReset (f : Counts → Counts) (s : State) : (s.count f).inReset = s.inReset := rfl
@[simp] theorem count_conf (f : Counts → Counts) (s : State) : (s.count f).conf = s.conf := rfl
@[simp] theorem count_travel (f : Counts → Counts) (s : State) : (s.count f).travel = s.travel := rfl
@[simp] theorem count_links (f : Counts → Counts) (s : State) : (s.count f).links = s.links := rfl
@[simp] theorem count_intake (f : Counts → Counts) (s : State) : (s.count f).intake = s.intake := rfl
@[simp] theorem count_refs (f : Counts → Counts) (s : State) : (s.count f).refs = s.refs := rfl
@[simp] theorem count_assembler (f : Counts → Counts) (s : State) : (s.count f).assembler = s.assembler := rfl
@[simp] theorem count_map (f : Counts → Counts) (s : State) : (s.count f).map = s.map := rfl
@[simp] theorem count_production (f : Counts → Counts) (s : State) : (s.count f).production = s.production := rfl
@[simp] theorem count_recipes (f : Counts → Counts) (s : State) : (s.count f).recipes = s.recipes := rfl
@[simp] theorem count_planner (f : Counts → Counts) (s : State) : (s.count f).planner = s.planner := rfl
@[simp] theorem count_dispatcher (f : Counts → Counts) (s : State) : (s.count f).dispatcher = s.dispatcher := rfl
@[simp] theorem count_grader (f : Counts → Counts) (s : State) : (s.count f).grader = s.grader := rfl
@[simp] theorem count_pending (f : Counts → Counts) (s : State) : (s.count f).pending = s.pending := rfl

/-! ## A transfer's own writes -/

@[simp] theorem shiftOut_mode (l : Link) (n : Nat) (s : State) : (shiftOut l n s).mode = s.mode := rfl
@[simp] theorem shiftOut_switch (l : Link) (n : Nat) (s : State) : (shiftOut l n s).switch = s.switch := rfl
@[simp] theorem shiftOut_inReset (l : Link) (n : Nat) (s : State) : (shiftOut l n s).inReset = s.inReset := rfl
@[simp] theorem shiftOut_conf (l : Link) (n : Nat) (s : State) : (shiftOut l n s).conf = s.conf := rfl
@[simp] theorem shiftOut_travel (l : Link) (n : Nat) (s : State) : (shiftOut l n s).travel = s.travel := rfl
@[simp] theorem shiftOut_intake (l : Link) (n : Nat) (s : State) : (shiftOut l n s).intake = s.intake := rfl
@[simp] theorem shiftOut_refs (l : Link) (n : Nat) (s : State) : (shiftOut l n s).refs = s.refs := rfl
@[simp] theorem shiftOut_assembler (l : Link) (n : Nat) (s : State) : (shiftOut l n s).assembler = s.assembler := rfl
@[simp] theorem shiftOut_map (l : Link) (n : Nat) (s : State) : (shiftOut l n s).map = s.map := rfl
@[simp] theorem shiftOut_production (l : Link) (n : Nat) (s : State) : (shiftOut l n s).production = s.production := rfl
@[simp] theorem shiftOut_recipes (l : Link) (n : Nat) (s : State) : (shiftOut l n s).recipes = s.recipes := rfl
@[simp] theorem shiftOut_planner (l : Link) (n : Nat) (s : State) : (shiftOut l n s).planner = s.planner := rfl
@[simp] theorem shiftOut_dispatcher (l : Link) (n : Nat) (s : State) : (shiftOut l n s).dispatcher = s.dispatcher := rfl
@[simp] theorem shiftOut_grader (l : Link) (n : Nat) (s : State) : (shiftOut l n s).grader = s.grader := rfl
@[simp] theorem shiftOut_accounts (l : Link) (n : Nat) (s : State) : (shiftOut l n s).accounts = s.accounts := rfl
@[simp] theorem shiftOut_pending (l : Link) (n : Nat) (s : State) : (shiftOut l n s).pending = s.pending := rfl
@[simp] theorem setPending_mode (l : Link) (r : Response) (s : State) : (setPending l r s).mode = s.mode := rfl
@[simp] theorem setPending_switch (l : Link) (r : Response) (s : State) : (setPending l r s).switch = s.switch := rfl
@[simp] theorem setPending_inReset (l : Link) (r : Response) (s : State) : (setPending l r s).inReset = s.inReset := rfl
@[simp] theorem setPending_conf (l : Link) (r : Response) (s : State) : (setPending l r s).conf = s.conf := rfl
@[simp] theorem setPending_travel (l : Link) (r : Response) (s : State) : (setPending l r s).travel = s.travel := rfl
@[simp] theorem setPending_intake (l : Link) (r : Response) (s : State) : (setPending l r s).intake = s.intake := rfl
@[simp] theorem setPending_refs (l : Link) (r : Response) (s : State) : (setPending l r s).refs = s.refs := rfl
@[simp] theorem setPending_assembler (l : Link) (r : Response) (s : State) : (setPending l r s).assembler = s.assembler := rfl
@[simp] theorem setPending_map (l : Link) (r : Response) (s : State) : (setPending l r s).map = s.map := rfl
@[simp] theorem setPending_production (l : Link) (r : Response) (s : State) : (setPending l r s).production = s.production := rfl
@[simp] theorem setPending_recipes (l : Link) (r : Response) (s : State) : (setPending l r s).recipes = s.recipes := rfl
@[simp] theorem setPending_planner (l : Link) (r : Response) (s : State) : (setPending l r s).planner = s.planner := rfl
@[simp] theorem setPending_dispatcher (l : Link) (r : Response) (s : State) : (setPending l r s).dispatcher = s.dispatcher := rfl
@[simp] theorem setPending_grader (l : Link) (r : Response) (s : State) : (setPending l r s).grader = s.grader := rfl
@[simp] theorem setPending_accounts (l : Link) (r : Response) (s : State) : (setPending l r s).accounts = s.accounts := rfl
@[simp] theorem setPending_pending (l : Link) (r : Response) (s : State) : (setPending l r s).pending = s.pending := rfl

/-! ## The compares -/

@[simp] theorem armDeadline_mode (start : Nat) (s : State) : (armDeadline start s).mode = s.mode := rfl
@[simp] theorem armDeadline_switch (start : Nat) (s : State) : (armDeadline start s).switch = s.switch := rfl
@[simp] theorem armDeadline_inReset (start : Nat) (s : State) : (armDeadline start s).inReset = s.inReset := rfl
@[simp] theorem armDeadline_conf (start : Nat) (s : State) : (armDeadline start s).conf = s.conf := rfl
@[simp] theorem armDeadline_links (start : Nat) (s : State) : (armDeadline start s).links = s.links := rfl
@[simp] theorem armDeadline_intake (start : Nat) (s : State) : (armDeadline start s).intake = s.intake := rfl
@[simp] theorem armDeadline_refs (start : Nat) (s : State) : (armDeadline start s).refs = s.refs := rfl
@[simp] theorem armDeadline_assembler (start : Nat) (s : State) : (armDeadline start s).assembler = s.assembler := rfl
@[simp] theorem armDeadline_map (start : Nat) (s : State) : (armDeadline start s).map = s.map := rfl
@[simp] theorem armDeadline_production (start : Nat) (s : State) : (armDeadline start s).production = s.production := rfl
@[simp] theorem armDeadline_recipes (start : Nat) (s : State) : (armDeadline start s).recipes = s.recipes := rfl
@[simp] theorem armDeadline_planner (start : Nat) (s : State) : (armDeadline start s).planner = s.planner := rfl
@[simp] theorem armDeadline_dispatcher (start : Nat) (s : State) : (armDeadline start s).dispatcher = s.dispatcher := rfl
@[simp] theorem armDeadline_grader (start : Nat) (s : State) : (armDeadline start s).grader = s.grader := rfl
@[simp] theorem armDeadline_accounts (start : Nat) (s : State) : (armDeadline start s).accounts = s.accounts := rfl
@[simp] theorem armDeadline_pending (start : Nat) (s : State) : (armDeadline start s).pending = s.pending := rfl
@[simp] theorem armExpiry_mode (seq target : Nat) (s : State) : (armExpiry seq target s).mode = s.mode := rfl
@[simp] theorem armExpiry_switch (seq target : Nat) (s : State) : (armExpiry seq target s).switch = s.switch := rfl
@[simp] theorem armExpiry_inReset (seq target : Nat) (s : State) : (armExpiry seq target s).inReset = s.inReset := rfl
@[simp] theorem armExpiry_conf (seq target : Nat) (s : State) : (armExpiry seq target s).conf = s.conf := rfl
@[simp] theorem armExpiry_links (seq target : Nat) (s : State) : (armExpiry seq target s).links = s.links := rfl
@[simp] theorem armExpiry_intake (seq target : Nat) (s : State) : (armExpiry seq target s).intake = s.intake := rfl
@[simp] theorem armExpiry_refs (seq target : Nat) (s : State) : (armExpiry seq target s).refs = s.refs := rfl
@[simp] theorem armExpiry_assembler (seq target : Nat) (s : State) : (armExpiry seq target s).assembler = s.assembler := rfl
@[simp] theorem armExpiry_map (seq target : Nat) (s : State) : (armExpiry seq target s).map = s.map := rfl
@[simp] theorem armExpiry_production (seq target : Nat) (s : State) : (armExpiry seq target s).production = s.production := rfl
@[simp] theorem armExpiry_recipes (seq target : Nat) (s : State) : (armExpiry seq target s).recipes = s.recipes := rfl
@[simp] theorem armExpiry_planner (seq target : Nat) (s : State) : (armExpiry seq target s).planner = s.planner := rfl
@[simp] theorem armExpiry_dispatcher (seq target : Nat) (s : State) : (armExpiry seq target s).dispatcher = s.dispatcher := rfl
@[simp] theorem armExpiry_grader (seq target : Nat) (s : State) : (armExpiry seq target s).grader = s.grader := rfl
@[simp] theorem armExpiry_accounts (seq target : Nat) (s : State) : (armExpiry seq target s).accounts = s.accounts := rfl
@[simp] theorem armExpiry_pending (seq target : Nat) (s : State) : (armExpiry seq target s).pending = s.pending := rfl

end Sys2Proof.Machine
end

