-- ==== Sys2Proof/Laws/Due.lean ====
section
/-!
SUPPORT. The due steps and the level flags: when nothing is due the settling changes nothing, an event that changes no level
condition sets no level flag, and what a step of a block answers.
-/

namespace Sys2Proof.Machine

/-! ## Nothing due -/

theorem quiet_iff (s : State) :
    s.quiet = true ↔ s.stopIsDue = false ∧ s.travel.stepDue = false ∧ s.heldIsDue = false := by
  simp [State.quiet, and_assoc]

theorem settle_of_quiet {s : State} (h : s.quiet = true) : settle s = s := by
  obtain ⟨hs, ht, hh⟩ := (quiet_iff s).mp h
  simp [settle, settleStop, settleStep, settleHeld, hs, ht, hh]

/-- No decision is held with a slot free, in a part with nothing due. -/
theorem settleHeld_of_quiet {s : State} (h : s.quiet = true) : settleHeld s = s := by
  simp [settleHeld, ((quiet_iff s).mp h).2.2]

/-! ## Level flags -/

/-- The level flags of the part that an event makes rise touch nothing but the flags of the links. -/
theorem setRisenLevels_frame (old new : State) : { setRisenLevels old new with links := new.links } = new := by
  unfold setRisenLevels setIfRisen
  split <;> split <;> split <;> rfl

theorem setRisenLevels_of_same {old new : State} (hready : new.ready = true → old.ready = true)
    (hroute : new.routeWaiting = true → old.routeWaiting = true) (hstarved : new.starved = true → old.starved = true) :
    setRisenLevels old new = new := by
  unfold setRisenLevels setIfRisen
  cases h₁ : old.ready <;> cases h₂ : new.ready <;> cases h₃ : old.routeWaiting <;> cases h₄ : new.routeWaiting <;>
    cases h₅ : old.starved <;> cases h₆ : new.starved <;> simp_all

@[simp] theorem setRisenLevels_self (s : State) : setRisenLevels s s = s := setRisenLevels_of_same id id id

/-- An event that leaves the cut queue, the routing list, the orders and the mode alone makes no level condition rise. -/
theorem setRisenLevels_of_fields {old new : State} (hcuts : new.dispatcher.cuts = old.dispatcher.cuts)
    (hroutes : new.dispatcher.routing = old.dispatcher.routing) (horders : new.production.orders = old.production.orders)
    (hmode : new.mode = old.mode) : setRisenLevels old new = new :=
  setRisenLevels_of_same (by simp [State.ready, hcuts]) (by simp [State.routeWaiting, hroutes])
    (by simp [State.starved, horders, hmode])

@[simp] theorem setRisenLevels_mode (old new : State) : (setRisenLevels old new).mode = new.mode :=
  (congrArg State.mode (setRisenLevels_frame old new) :)
@[simp] theorem setRisenLevels_switch (old new : State) : (setRisenLevels old new).switch = new.switch :=
  (congrArg State.switch (setRisenLevels_frame old new) :)
@[simp] theorem setRisenLevels_inReset (old new : State) : (setRisenLevels old new).inReset = new.inReset :=
  (congrArg State.inReset (setRisenLevels_frame old new) :)
@[simp] theorem setRisenLevels_conf (old new : State) : (setRisenLevels old new).conf = new.conf :=
  (congrArg State.conf (setRisenLevels_frame old new) :)
@[simp] theorem setRisenLevels_travel (old new : State) : (setRisenLevels old new).travel = new.travel :=
  (congrArg State.travel (setRisenLevels_frame old new) :)
@[simp] theorem setRisenLevels_intake (old new : State) : (setRisenLevels old new).intake = new.intake :=
  (congrArg State.intake (setRisenLevels_frame old new) :)
@[simp] theorem setRisenLevels_refs (old new : State) : (setRisenLevels old new).refs = new.refs :=
  (congrArg State.refs (setRisenLevels_frame old new) :)
@[simp] theorem setRisenLevels_assembler (old new : State) : (setRisenLevels old new).assembler = new.assembler :=
  (congrArg State.assembler (setRisenLevels_frame old new) :)
@[simp] theorem setRisenLevels_map (old new : State) : (setRisenLevels old new).map = new.map :=
  (congrArg State.map (setRisenLevels_frame old new) :)
@[simp] theorem setRisenLevels_production (old new : State) : (setRisenLevels old new).production = new.production :=
  (congrArg State.production (setRisenLevels_frame old new) :)
@[simp] theorem setRisenLevels_recipes (old new : State) : (setRisenLevels old new).recipes = new.recipes :=
  (congrArg State.recipes (setRisenLevels_frame old new) :)
@[simp] theorem setRisenLevels_planner (old new : State) : (setRisenLevels old new).planner = new.planner :=
  (congrArg State.planner (setRisenLevels_frame old new) :)
@[simp] theorem setRisenLevels_dispatcher (old new : State) : (setRisenLevels old new).dispatcher = new.dispatcher :=
  (congrArg State.dispatcher (setRisenLevels_frame old new) :)
@[simp] theorem setRisenLevels_grader (old new : State) : (setRisenLevels old new).grader = new.grader :=
  (congrArg State.grader (setRisenLevels_frame old new) :)
@[simp] theorem setRisenLevels_accounts (old new : State) : (setRisenLevels old new).accounts = new.accounts :=
  (congrArg State.accounts (setRisenLevels_frame old new) :)
@[simp] theorem setRisenLevels_pending (old new : State) : (setRisenLevels old new).pending = new.pending :=
  (congrArg State.pending (setRisenLevels_frame old new) :)

@[simp] theorem setRisenLevels_staleArmed (old new : State) :
    (setRisenLevels old new).links.staleArmed = new.links.staleArmed := by
  unfold setRisenLevels setIfRisen
  split <;> split <;> split <;> simp

/-- Setting risen level flags keeps every flag that is set. -/
theorem flagSet_setRisenLevels {d : Event} {old new : State} (h : new.flagSet d = true) :
    (setRisenLevels old new).flagSet d = true := by
  unfold setRisenLevels setIfRisen
  split <;> split <;> split <;> repeat (first | exact h | apply flagSet_raise_of_flagSet)

/-! ## Steps of a block -/

theorem blockStep_of_working {s : State} (h : Working s) (f : State → State) :
    blockStep f s = .next (setRisenLevels s (f s)) := by
  simp [blockStep, h.1, settle_of_quiet h.2, asEvent]

theorem blockStep_in_reset {s : State} (h : s.inReset = true) (f : State → State) : blockStep f s = .next s := by
  simp [blockStep, h]

theorem dueStep_of_not_reset {s : State} (h : s.inReset = false) (f : State → State) : dueStep f s = .next (f s) := by
  simp [dueStep, h]

theorem dueStep_in_reset {s : State} (h : s.inReset = true) (f : State → State) : dueStep f s = .next s := by
  simp [dueStep, h]

end Sys2Proof.Machine
end

