-- ==== Sys2Proof/Laws/Transfers.lean ====
section
/-!
SUPPORT. A transfer on a working part: what it answers, when its command is refused, when its command changes no block, and
when it changes blocks but no level condition.
-/

namespace Sys2Proof.Machine

theorem transfer_of_working {s : State} (h : Working s) (l : Link) (b : Body) (act : State → State × Response) :
    transfer l b act s =
      .next
        (setPending l (act (shiftOut l (b.data.length + 1) s)).2
          (setRisenLevels (shiftOut l (b.data.length + 1) s) (act (shiftOut l (b.data.length + 1) s)).1)) := by
  simp [transfer, h.1, settle_of_quiet h.2]

theorem transfer_in_reset {s : State} (h : s.inReset = true) (l : Link) (b : Body) (act : State → State × Response) :
    transfer l b act s = .next (shiftZeros l (b.data.length + 1) s) := by
  simp [transfer, h]

/-- What `transferred` leaves: the response pending over the words shifted out. -/
theorem setPending_shiftOut (l : Link) (b : Body) (code : Byte) (r : Reply) (s : State) :
    setPending l (r.response code) (shiftOut l (b.data.length + 1) s) = transferred l b code r s := by
  simp [setPending, shiftOut, transferred]

/-- A command a check refuses changes no block. -/
theorem command_refused {s : State} (h : Working s) {a : Acceptance} {l : Link} {b : Body} {why : Reason}
    (hr : a.refusal l b s.mode = some why) (act : State → State × Reply) :
    command a l b act s = .next (refusedFor l b a.code why s) := by
  simp [command, transfer_of_working h, respond, hr, refusedFor, ← setPending_shiftOut]

theorem command_accepted {s : State} (h : Working s) {a : Acceptance} {l : Link} {b : Body}
    (hr : a.refusal l b s.mode = none) (act : State → State × Reply) :
    command a l b act s =
      .next
        (setPending l ((act (shiftOut l (b.data.length + 1) s)).2.response a.code)
          (setRisenLevels (shiftOut l (b.data.length + 1) s) (act (shiftOut l (b.data.length + 1) s)).1)) := by
  simp [command, transfer_of_working h, respond, hr]

/-- An accepted command that only replies. -/
theorem command_answer {s : State} (h : Working s) {a : Acceptance} {l : Link} {b : Body}
    (hr : a.refusal l b s.mode = none) {act : State → State × Reply} {r : Reply}
    (hact : act (shiftOut l (b.data.length + 1) s) = (shiftOut l (b.data.length + 1) s, r)) :
    command a l b act s = .next (transferred l b a.code r s) := by
  rw [command_accepted h hr, hact]
  simp [setPending_shiftOut]

/-- An accepted command that changes blocks, of which no level condition takes notice: `t` is the part it leaves. -/
theorem command_changes {s t : State} (h : Working s) {a : Acceptance} {l : Link} {b : Body}
    (hr : a.refusal l b s.mode = none) {act : State → State × Reply} {r : Reply}
    (hact : act (shiftOut l (b.data.length + 1) s) = (shiftOut l (b.data.length + 1) t, r))
    (hcuts : t.dispatcher.cuts = s.dispatcher.cuts) (hroutes : t.dispatcher.routing = s.dispatcher.routing)
    (horders : t.production.orders = s.production.orders) (hmode : t.mode = s.mode) :
    command a l b act s = .next (transferred l b a.code r t) := by
  rw [command_accepted h hr, hact, setRisenLevels_of_fields (by simpa using hcuts) (by simpa using hroutes)
    (by simpa using horders) (by simpa using hmode)]
  simp [setPending_shiftOut]

/-! ## The checks of R18 -/

theorem refusal_gantry (code : Byte) (accepts : Mode → Bool) (fixed : Nat) (b : Body) (m : Mode) :
    (gantryEntry code accepts fixed).refusal .gantry b m =
      if accepts m = false then some .mode else if b.data.length < fixed then some .short else none := by
  simp [Acceptance.refusal, Acceptance.belongs, gantryEntry]
  rfl

theorem refusal_cutter (code : Byte) (fixed : Nat) (b : Body) (m : Mode) :
    (cutterEntry code fixed).refusal .cutter b m = if b.data.length < fixed then some .short else none := by
  simp [Acceptance.refusal, Acceptance.belongs, cutterEntry, anyMode]
  rfl

theorem refusal_supervisor (code : Byte) (accepts : Mode → Bool) (fixed : Nat) (b : Body) (m : Mode) :
    (supervisorEntry code accepts fixed).refusal .supervisor b m =
      if accepts m = false then some .mode else if b.data.length < fixed then some .short else none := by
  simp [Acceptance.refusal, Acceptance.belongs, supervisorEntry]
  rfl

theorem refusal_common (code : Byte) (fixed : Nat) (l : Link) (b : Body) (m : Mode) :
    (commonEntry code fixed).refusal l b m = if b.data.length < fixed then some .short else none := by
  simp [Acceptance.refusal, Acceptance.belongs, commonEntry, anyMode]
  rfl

end Sys2Proof.Machine
end

