-- ==== Sys2Proof/Laws/Exec.lean ====
section
/-!
SUPPORT. What a command answers, by its form: every command of a link that carries a command word is one transfer, and every
well-formed command answers a next state.
-/

namespace Sys2Proof.Machine

theorem confListed_eq_transfer (arg : Byte) (l : Link) (b : Body) :
    ∃ act, ∀ s, confListed arg l b s = transfer l b act s := by
  unfold confListed
  split <;> exact ⟨_, fun s => rfl⟩

theorem execUnknownCommand_eq_transfer {code : Byte} (h : codeDefined code = false) (l : Link) (arg : Byte) (b : Body) :
    ∃ act, ∀ s, execUnknownCommand l code arg b s = transfer l b act s :=
  ⟨fun s => (s, ⟨statusWord code .unknown .none, []⟩), fun s => by simp [execUnknownCommand, h]⟩

theorem execRestart_eq_transfer (l : Link) (arg : Byte) (b : Body) :
    ∃ act, ∀ s, execRestart l arg b s = transfer l b act s := 
  ⟨fun s =>
      match (supervisorEntry 0x41 anyMode 0).refusal l b s.mode with
      | some why => (s, (Reply.refused why).response 0x41)
      | none => (restart s, Response.empty),
    fun _ => rfl⟩

set_option maxHeartbeats 1000000 in
/-- A well-formed command that a master sends is an empty transfer, or one transfer of its command. -/
theorem exec_eq_transfer {i : Instr} {tr : Transfer} (hw : WellFormed i = true) (he : encode i = some tr) :
    (∃ l tail, i = .emptyTransfer l tail) ∨
      ∃ (w : Word) (b : Body) (act : State → State × Response), tr.words = w :: b.data ∧
        ∀ s, exec i s = transfer tr.link b act s := by
  cases i <;> simp only [encode, Option.some.injEq, reduceCtorEq] at he <;> subst he
  case emptyTransfer l tail => exact Or.inl ⟨_, _, rfl⟩
  case unknownCommand l code arg b =>
    have hc : codeDefined code = false := by simp [WellFormed, Instr.argWf] at hw; exact hw.1
    obtain ⟨act, h⟩ := execUnknownCommand_eq_transfer hc l arg b
    exact Or.inr ⟨_, b, act, rfl, h⟩
  case confLaneExtent l arg b =>
    obtain ⟨act, h⟩ := confListed_eq_transfer arg l b
    exact Or.inr ⟨_, b, act, rfl, h⟩
  case confDestination l arg b =>
    obtain ⟨act, h⟩ := confListed_eq_transfer arg l b
    exact Or.inr ⟨_, b, act, rfl, h⟩
  case restart l arg b =>
    obtain ⟨act, h⟩ := execRestart_eq_transfer l arg b
    exact Or.inr ⟨_, b, act, rfl, h⟩
  all_goals exact Or.inr ⟨_, _, _, rfl, fun s => rfl⟩

end Sys2Proof.Machine
end

