-- ==== Sys2Proof/Laws/Acceptance.lean ====
section
/-!
SUPPORT. The acceptance table of section 2.4 as one lemma: what a transfer with a command word of a defined code passes
before it acts.
-/

namespace Sys2Proof.Machine

/-- What the acceptance table says of the command `i` that code and argument spell: `a` is its entry, and a check of it
that fails refuses the command. -/
def EntryOf (a : Acceptance) (l : Link) (code arg : Byte) (b : Body) (i : Instr) : Prop :=
  (∃ act, (∀ s, exec i s = transfer l b act s) ∧
      ∀ s why, a.refusal l b s.mode = some why → act s = (s, (Reply.refused why).response code)) ∧
    a.owner = ownerOfCode code ∧ fixedWordsOf code arg ≤ a.fixed ∧
    (refusedInSetup code = true → a.accepts = notSetup) ∧
    (code = 0x31 → arg.toNat ≤ 0x10 ∨ (0x20 ≤ arg.toNat ∧ arg.toNat ≤ 0x2B) → a.accepts = onlySetup) ∧
    (refusedInSetup code = false → code ≠ 0x31 → a.accepts = anyMode)

theorem respond_refused {a : Acceptance} {l : Link} {b : Body} {s : State} {why : Reason}
    (h : a.refusal l b s.mode = some why) (act : State → State × Reply) :
    respond a l b act s = (s, (Reply.refused why).response a.code) := by
  simp [respond, h]

/-- A command that a check of its entry refuses changes no block. -/
theorem EntryOf.refused {a : Acceptance} {l : Link} {code arg : Byte} {b : Body} {i : Instr} (x : EntryOf a l code arg b i)
    {s : State} (h : Working s) {why : Reason} (hr : a.refusal l b s.mode = some why) :
    exec i s = .next (refusedFor l b code why s) := by
  obtain ⟨⟨act, hruns, hact⟩, -⟩ := x
  rw [hruns, transfer_of_working h, hact (shiftOut l (b.data.length + 1) s) why (by simpa using hr)]
  simp [refusedFor, ← setPending_shiftOut]

/-! ## The entry of each code -/

/-- A command that works in every mode. -/
theorem entryOf_anyMode {l : Link} {code arg : Byte} {b : Body} {i : Instr} {a : Acceptance} {act : State → State × Reply}
    (hruns : ∀ s, exec i s = command a l b act s) (hcode : a.code = code) (howner : a.owner = ownerOfCode code)
    (hfixed : fixedWordsOf code arg ≤ a.fixed) (hmodes : a.accepts = anyMode) (hsetup : refusedInSetup code = false)
    (hconf : code ≠ 0x31) : EntryOf a l code arg b i :=
  ⟨⟨respond a l b act, hruns, fun _ _ h => hcode ▸ respond_refused h act⟩, howner, hfixed,
    fun h => absurd h (by simp [hsetup]), fun h => absurd h hconf, fun _ _ => hmodes⟩

/-- A command that SETUP refuses. -/
theorem entryOf_notSetup {l : Link} {code arg : Byte} {b : Body} {i : Instr} {a : Acceptance} {act : State → State × Reply}
    (hruns : ∀ s, exec i s = command a l b act s) (hcode : a.code = code) (howner : a.owner = ownerOfCode code)
    (hfixed : fixedWordsOf code arg ≤ a.fixed) (hmodes : a.accepts = notSetup) (hsetup : refusedInSetup code = true)
    (hconf : code ≠ 0x31) : EntryOf a l code arg b i :=
  ⟨⟨respond a l b act, hruns, fun _ _ h => hcode ▸ respond_refused h act⟩, howner, hfixed, fun _ => hmodes,
    fun h => absurd h hconf, fun h => absurd h (by simp [hsetup])⟩

/-- A CONF of an item, or of an argument that names none. -/
theorem entryOf_conf {l : Link} {arg : Byte} {b : Body} {i : Instr} {a : Acceptance} {act : State → State × Reply}
    (hruns : ∀ s, exec i s = command a l b act s) (hcode : a.code = 0x31) (howner : a.owner = some .supervisor)
    (hmodes : arg.toNat ≤ 0x10 ∨ (0x20 ≤ arg.toNat ∧ arg.toNat ≤ 0x2B) → a.accepts = onlySetup) :
    EntryOf a l 0x31 arg b i :=
  ⟨⟨respond a l b act, hruns, fun _ _ h => hcode ▸ respond_refused h act⟩, howner, Nat.zero_le _,
    fun h => absurd h (by decide), fun _ => hmodes, fun _ h => absurd rfl h⟩

/-- The row of a listed CONF item. -/
theorem entryOf_listed (l : Link) (arg : Byte) (b : Body) (h : ¬arg.toNat ≤ 0x10) {i : Instr}
    (hi : ∀ s, exec i s = confListed arg l b s) : ∃ a, EntryOf a l 0x31 arg b i := by
  rcases hm : listedItem arg with _ | item
  · refine ⟨_, entryOf_conf (fun s => (hi s).trans (by simp only [confListed, hm]; rfl)) rfl rfl fun hl => ?_⟩
    simp only [listedItem] at hm
    split at hm
    · exact absurd hm (by simp)
    · split at hm
      · exact absurd hm (by simp)
      · omega
  · refine ⟨_, entryOf_conf (fun s => (hi s).trans (by simp only [confListed, hm]; rfl)) rfl rfl fun hl => ?_⟩
    simp only [listedItem] at hm
    split at hm
    · obtain rfl := Option.some.inj hm; rfl
    · omega

/-- The CONF row of an argument. -/
theorem exists_entryOf_conf (l : Link) (arg : Byte) (b : Body) : ∃ a, EntryOf a l 0x31 arg b (confRow l arg b) := by
  unfold confRow
  split
  case h_18 =>
    have h : ¬arg.toNat ≤ 0x10 := by simp only [imp_false] at *; omega
    split <;> exact entryOf_listed l arg b h fun _ => rfl
  all_goals exact ⟨_, entryOf_conf (fun _ => rfl) rfl rfl fun _ => rfl⟩

/-- The RCP row of an argument. -/
theorem exists_entryOf_rcp (l : Link) (arg : Byte) (b : Body) : ∃ a, EntryOf a l 0x39 arg b (rcpRow l arg b) := by
  have hread : ∀ x : Byte, rcpReads x = true → fixedWordsOf 0x39 x ≤ 0 := by decide
  have hwrite : ∀ x : Byte, rcpReads x = false → fixedWordsOf 0x39 x ≤ sectionFixed (sectionOf x) := by decide
  have hsec : ∀ x : Byte, rcpReads x = false → x.toNat = 8 ∨ x.toNat = 9 ∨ x.toNat = 10 → sectionOf x = some x.toNat := by
    decide
  unfold rcpRow
  split
  · rename_i h; exact ⟨_, entryOf_anyMode (fun _ => rfl) rfl rfl (hread arg h) rfl rfl (by decide)⟩
  · rename_i h
    have h' : rcpReads arg = false := by simpa using h
    have hw := hwrite arg h'
    split
    · rename_i e
      exact ⟨_, entryOf_anyMode (fun _ => rfl) rfl rfl (by rw [hsec arg h' (by omega), e] at hw; exact hw) rfl rfl (by decide)⟩
    · rename_i e
      exact ⟨_, entryOf_anyMode (fun _ => rfl) rfl rfl (by rw [hsec arg h' (by omega), e] at hw; exact hw) rfl rfl (by decide)⟩
    · rename_i e
      exact ⟨_, entryOf_anyMode (fun _ => rfl) rfl rfl (by rw [hsec arg h' (by omega), e] at hw; exact hw) rfl rfl (by decide)⟩
    · exact ⟨_, entryOf_anyMode (fun _ => rfl) rfl rfl hw rfl rfl (by decide)⟩

/-- RESTART, whose own response is replaced. -/
theorem entryOf_restart (l : Link) (arg : Byte) (b : Body) :
    EntryOf (supervisorEntry 0x41 anyMode 0) l 0x41 arg b (.restart l arg b) :=
  ⟨⟨fun s =>
        match (supervisorEntry 0x41 anyMode 0).refusal l b s.mode with
        | some why => (s, (Reply.refused why).response 0x41)
        | none => (restart s, Response.empty),
      fun _ => rfl, fun s why h => by simp only [h]⟩,
    rfl, Nat.zero_le _, fun h => absurd h (by decide), fun h => absurd h (by decide), fun _ _ => rfl⟩

/-- Every command word of a defined code has its entry of the acceptance table. -/
theorem exists_entryOf (l : Link) (code arg : Byte) (b : Body) (h : codeDefined code = true) :
    ∃ a, EntryOf a l code arg b (ofCommandWord l code arg b) := by
  have eqn : ∀ n : Nat, n < 256 → code.toNat = n → code = BitVec.ofNat 8 n := by
    intro n hn e
    apply BitVec.eq_of_toNat_eq
    simp [e]
    omega
  unfold ofCommandWord
  split
  all_goals first
    | (rename_i e; obtain rfl := eqn _ (by decide) e)
    | (simp [codeDefined] at h; simp only [imp_false] at *; omega)
  case h_15 => exact exists_entryOf_conf l arg b
  case h_23 => exact exists_entryOf_rcp l arg b
  case h_5 => exact ⟨_, entryOf_notSetup (fun _ => rfl) rfl rfl (Nat.le_refl _) rfl rfl (by decide)⟩
  case h_6 => exact ⟨_, entryOf_notSetup (fun _ => rfl) rfl rfl (Nat.le_refl _) rfl rfl (by decide)⟩
  case h_7 => exact ⟨_, entryOf_notSetup (fun _ => rfl) rfl rfl (Nat.le_refl _) rfl rfl (by decide)⟩
  case h_8 => exact ⟨_, entryOf_notSetup (fun _ => rfl) rfl rfl (Nat.le_refl _) rfl rfl (by decide)⟩
  case h_25 =>
    split
    · exact ⟨_, entryOf_notSetup (fun _ => rfl) rfl rfl (by simp [fixedWordsOf]; split <;> decide) rfl rfl (by decide)⟩
    · split
      · exact ⟨_, entryOf_notSetup (fun _ => rfl) rfl rfl (by simp [fixedWordsOf]; split <;> decide) rfl rfl (by decide)⟩
      · exact ⟨_, entryOf_notSetup (fun _ => rfl) rfl rfl (by simp_all [fixedWordsOf]) rfl rfl (by decide)⟩
  case h_11 =>
    split <;> exact ⟨_, entryOf_anyMode (fun _ => rfl) rfl rfl (Nat.le_refl _) rfl rfl (by decide)⟩
  case h_14 =>
    split
    · exact ⟨_, entryOf_anyMode (fun _ => rfl) rfl rfl (Nat.le_refl _) rfl rfl (by decide)⟩
    · split
      · exact ⟨_, entryOf_anyMode (fun _ => rfl) rfl rfl (Nat.le_refl _) rfl rfl (by decide)⟩
      · split <;> exact ⟨_, entryOf_anyMode (fun _ => rfl) rfl rfl (Nat.le_refl _) rfl rfl (by decide)⟩
  case h_17 =>
    split
    · exact ⟨_, entryOf_anyMode (fun _ => rfl) rfl rfl (by simp [fixedWordsOf]; split <;> decide) rfl rfl (by decide)⟩
    · exact ⟨_, entryOf_anyMode (fun _ => rfl) rfl rfl (by simp_all [fixedWordsOf]) rfl rfl (by decide)⟩
  case h_18 => split <;> exact ⟨_, entryOf_anyMode (fun _ => rfl) rfl rfl (Nat.zero_le _) rfl rfl (by decide)⟩
  case h_24 =>
    split
    · exact ⟨_, entryOf_anyMode (fun _ => rfl) rfl rfl (by simp_all [fixedWordsOf]) rfl rfl (by decide)⟩
    · exact ⟨_, entryOf_anyMode (fun _ => rfl) rfl rfl (Nat.le_refl _) rfl rfl (by decide)⟩
  case h_31 => exact ⟨_, entryOf_restart l arg b⟩
  all_goals exact ⟨_, entryOf_anyMode (fun _ => rfl) rfl rfl (Nat.le_refl _) rfl rfl (by decide)⟩

end Sys2Proof.Machine
end

