-- ==== Sys2Proof/Laws/Ops.lean ====
section
/-!
SUPPORT. The shared operations on counters and lists: their ranges, their lengths and what they keep.
-/

namespace Sys2Proof.Machine

/-! ## Counters -/

theorem bump_le {n : Nat} (h : n ≤ 65535) : bump n ≤ 65535 := by
  unfold bump Config.countMax
  split <;> omega

theorem wrapSucc_le (n : Nat) : wrapSucc n ≤ 65535 := by
  unfold wrapSucc Config.countMax
  split <;> omega

theorem wrapSuccOne_mem (n : Nat) : 1 ≤ wrapSuccOne n ∧ wrapSuccOne n ≤ 65535 := by
  unfold wrapSuccOne Config.countMax
  split <;> omega

theorem addSat_le (n k : Nat) : addSat n k ≤ 4294967295 := Nat.min_le_left _ _

/-! ## Insertion -/

/-- An insertion adds one element and keeps the others in their order. -/
theorem insertOrdered_eq_append {α : Type} (precedes : α → α → Bool) (x : α) (xs : List α) :
    ∃ before after, xs = before ++ after ∧ insertOrdered precedes x xs = before ++ x :: after ∧
      (∀ y ∈ before, precedes x y = false) ∧ ∀ y, after.head? = some y → precedes x y = true := by
  induction xs with
  | nil => exact ⟨[], [], rfl, rfl, by simp, by simp⟩
  | cons y ys ih =>
    unfold insertOrdered
    split
    · rename_i h
      exact ⟨[], y :: ys, rfl, rfl, by simp, by simpa using h⟩
    · rename_i h
      obtain ⟨before, after, hxs, hins, hbefore, hafter⟩ := ih
      refine ⟨y :: before, after, by rw [hxs]; rfl, by rw [hins]; rfl, ?_, hafter⟩
      intro z hz
      rcases List.mem_cons.mp hz with rfl | hz
      · simpa using h
      · exact hbefore z hz

theorem insertOrdered_perm {α : Type} (precedes : α → α → Bool) (x : α) (xs : List α) :
    (insertOrdered precedes x xs).Perm (x :: xs) := by
  obtain ⟨before, after, rfl, hins, -⟩ := insertOrdered_eq_append precedes x xs
  rw [hins]
  exact List.perm_middle

@[simp] theorem insertOrdered_length {α : Type} (precedes : α → α → Bool) (x : α) (xs : List α) :
    (insertOrdered precedes x xs).length = xs.length + 1 := (insertOrdered_perm precedes x xs).length_eq

@[simp] theorem mem_insertOrdered {α : Type} (precedes : α → α → Bool) (x y : α) (xs : List α) :
    y ∈ insertOrdered precedes x xs ↔ y = x ∨ y ∈ xs := by
  rw [(insertOrdered_perm precedes x xs).mem_iff, List.mem_cons]

/-- Putting a list in order keeps its elements. -/
theorem sortOrdered_perm {α : Type} (precedes : α → α → Bool) (xs : List α) : (sortOrdered precedes xs).Perm xs := by
  have key : ∀ (xs sorted : List α),
      (xs.foldl (fun sorted x => insertOrdered precedes x sorted) sorted).Perm (sorted ++ xs) := by
    intro xs
    induction xs with
    | nil => intro sorted; simp
    | cons x xs ih =>
      intro sorted
      refine (ih _).trans ?_
      refine ((insertOrdered_perm precedes x sorted).append_right xs).trans ?_
      simpa using List.perm_middle.symm
  simpa [sortOrdered] using key xs []

@[simp] theorem mem_sortOrdered {α : Type} (precedes : α → α → Bool) (y : α) (xs : List α) :
    y ∈ sortOrdered precedes xs ↔ y ∈ xs := (sortOrdered_perm precedes xs).mem_iff

/-- Putting a list in order, by a strict weak order, orders it, and elements of which neither precedes the other keep the
order they had. -/
theorem sortOrdered_stable {α : Type} {precedes : α → α → Bool} {before : α → α → Prop}
    (hasymm : ∀ a b, precedes a b = true → precedes b a = false)
    (hneg : ∀ a b c, precedes a b = true → precedes a c = true ∨ precedes c b = true) {xs : List α}
    (hxs : xs.Pairwise before) :
    (sortOrdered precedes xs).Pairwise fun a b => precedes a b = true ∨ (precedes b a = false ∧ before a b) := by
  have key : ∀ (xs sorted : List α), xs.Pairwise before → (∀ a ∈ sorted, ∀ b ∈ xs, before a b) →
      (sorted.Pairwise fun a b => precedes a b = true ∨ (precedes b a = false ∧ before a b)) →
      (xs.foldl (fun sorted x => insertOrdered precedes x sorted) sorted).Pairwise
        fun a b => precedes a b = true ∨ (precedes b a = false ∧ before a b) := by
    intro xs
    induction xs with
    | nil => exact fun _ _ _ h => h
    | cons x xs ih =>
      intro sorted hxs hacross hsorted
      obtain ⟨hx, hxs⟩ := List.pairwise_cons.mp hxs
      refine ih _ hxs ?_ ?_
      · intro a ha b hb
        rcases (mem_insertOrdered precedes x a sorted).mp ha with rfl | ha
        · exact hx b hb
        · exact hacross a ha b (List.mem_cons_of_mem _ hb)
      · obtain ⟨front, back, rfl, hins, hfront, hback⟩ := insertOrdered_eq_append precedes x sorted
        show List.Pairwise _ (insertOrdered precedes x (front ++ back))
        rw [hins]
        obtain ⟨h₁, h₂, h₃⟩ := List.pairwise_append.mp hsorted
        refine List.pairwise_append.mpr ⟨h₁, List.pairwise_cons.mpr ⟨fun b hb => Or.inl ?_, h₂⟩, fun a ha b hb => ?_⟩
        · cases back with
          | nil => simp at hb
          | cons y ys =>
            have hy := hback y rfl
            rcases List.mem_cons.mp hb with rfl | hb
            · exact hy
            · rcases hneg _ _ b hy with h | h
              · exact h
              · rcases (List.pairwise_cons.mp h₂).1 b hb with h' | ⟨h', -⟩
                · rw [hasymm _ _ h'] at h; exact absurd h (by simp)
                · rw [h'] at h; exact absurd h (by simp)
        · rcases List.mem_cons.mp hb with rfl | hb
          · exact Or.inr ⟨hfront a ha, hacross a (List.mem_append_left _ ha) _ List.mem_cons_self⟩
          · exact h₃ a ha b hb
  exact key xs [] hxs (by simp) List.Pairwise.nil

/-! ## Updating one element -/

@[simp] theorem updateFirst_length {α : Type} (found : α → Bool) (f : α → α) (xs : List α) :
    (updateFirst found f xs).length = xs.length := by
  induction xs with
  | nil => rfl
  | cons x xs ih => unfold updateFirst; split <;> simp [ih]

/-- An update replaces the first element the test finds, or changes nothing when it finds none. -/
theorem updateFirst_eq {α : Type} (found : α → Bool) (f : α → α) (xs : List α) :
    ((∀ x ∈ xs, found x = false) ∧ updateFirst found f xs = xs) ∨
      ∃ before x after, xs = before ++ x :: after ∧ (∀ y ∈ before, found y = false) ∧ found x = true ∧
        updateFirst found f xs = before ++ f x :: after := by
  induction xs with
  | nil => exact Or.inl ⟨by simp, rfl⟩
  | cons x xs ih =>
    unfold updateFirst
    split
    · rename_i h
      exact Or.inr ⟨[], x, xs, rfl, by simp, h, rfl⟩
    · rename_i h
      have h' : found x = false := by simpa using h
      rcases ih with ⟨hnone, heq⟩ | ⟨before, y, after, hxs, hbefore, hy, heq⟩
      · exact Or.inl ⟨by simpa [h'] using hnone, by rw [heq]⟩
      · exact Or.inr ⟨x :: before, y, after, by rw [hxs]; rfl, by simpa [h'] using hbefore, hy, by rw [heq]; rfl⟩

theorem updateFirst_append {α : Type} {found : α → Bool} (f : α → α) {before after : List α} {x : α}
    (hbefore : ∀ y ∈ before, found y = false) (hx : found x = true) :
    updateFirst found f (before ++ x :: after) = before ++ f x :: after := by
  induction before with
  | nil => simp [updateFirst, hx]
  | cons y before ih =>
    simp only [List.mem_cons, forall_eq_or_imp] at hbefore
    simp [updateFirst, hbefore.1, ih hbefore.2]

/-! ## The least element by a key -/

theorem leastBy_mem {α : Type} (key : α → Nat) (x : α) (xs : List α) : leastBy key x xs ∈ x :: xs := by
  have step : ∀ (ys : List α) (b : α), b ∈ x :: xs → (∀ y ∈ ys, y ∈ x :: xs) →
      ys.foldl (fun best y => if key y < key best then y else best) b ∈ x :: xs := by
    intro ys
    induction ys with
    | nil => intro b hb _; exact hb
    | cons y ys ih =>
      intro b hb hys
      refine ih _ ?_ fun z hz => hys z (List.mem_cons_of_mem _ hz)
      show (if key y < key b then y else b) ∈ x :: xs
      split
      · exact hys y List.mem_cons_self
      · exact hb
  exact step xs x List.mem_cons_self fun y hy => List.mem_cons_of_mem _ hy

/-- No element has a smaller key. -/
theorem leastBy_le {α : Type} (key : α → Nat) (x : α) (xs : List α) {y : α} (hy : y ∈ x :: xs) :
    key (leastBy key x xs) ≤ key y := by
  have step : ∀ (ys : List α) (b : α),
      key (ys.foldl (fun best y => if key y < key best then y else best) b) ≤ key b ∧
        ∀ y ∈ ys, key (ys.foldl (fun best y => if key y < key best then y else best) b) ≤ key y := by
    intro ys
    induction ys with
    | nil => intro b; exact ⟨Nat.le_refl _, by simp⟩
    | cons z ys ih =>
      intro b
      obtain ⟨h₁, h₂⟩ := ih (if key z < key b then z else b)
      simp only [List.foldl_cons, List.mem_cons, forall_eq_or_imp]
      refine ⟨?_, ?_, h₂⟩
      · refine Nat.le_trans h₁ ?_
        split <;> omega
      · refine Nat.le_trans h₁ ?_
        split <;> omega
  rcases List.mem_cons.mp hy with rfl | hy
  · exact (step xs y).1
  · exact (step xs x).2 y hy

end Sys2Proof.Machine
end

