-- ==== Sys2Proof/Laws/Map.lean ====
section
/-!
SUPPORT. The ribbon map's operations: what an addition to the blind spans, a hand-off and a release may write, and what they
keep.
-/

namespace Sys2Proof.Machine

/-! ## Adding a span -/

/-- An end beyond 4,294,967,295 is taken as 4,294,967,295 (R86). -/
theorem addSpan_clamped (first last : Nat) (cause : SpanCause) (s : State) :
    addSpan first last cause s = addSpan (min first 4294967295) (min last 4294967295) cause s := by
  have idem : ∀ n, min (min n 4294967295) Config.rcMax = min n Config.rcMax := fun n => by unfold Config.rcMax; omega
  simp only [addSpan, idem]

/-- An addition writes the span list and, at an overflow merge, the supervisor's flags (R86, R87). -/
theorem addSpan_frame (first last : Nat) (cause : SpanCause) (s : State) :
    { addSpan first last cause s with map := s.map, links := s.links } = s := by
  unfold addSpan
  simp only
  split
  · rfl
  · split <;> rfl

/-- Of the map, an addition writes the span list alone. -/
theorem addSpan_map_frame (first last : Nat) (cause : SpanCause) (s : State) :
    { (addSpan first last cause s).map with spans := s.map.spans } = s.map := by
  unfold addSpan
  simp only
  split
  · rfl
  · split <;> rfl

@[simp] theorem addSpan_mode (first last : Nat) (cause : SpanCause) (s : State) : (addSpan first last cause s).mode = s.mode :=
  (congrArg State.mode (addSpan_frame first last cause s) :)
@[simp] theorem addSpan_switch (first last : Nat) (cause : SpanCause) (s : State) : (addSpan first last cause s).switch = s.switch :=
  (congrArg State.switch (addSpan_frame first last cause s) :)
@[simp] theorem addSpan_inReset (first last : Nat) (cause : SpanCause) (s : State) : (addSpan first last cause s).inReset = s.inReset :=
  (congrArg State.inReset (addSpan_frame first last cause s) :)
@[simp] theorem addSpan_conf (first last : Nat) (cause : SpanCause) (s : State) : (addSpan first last cause s).conf = s.conf :=
  (congrArg State.conf (addSpan_frame first last cause s) :)
@[simp] theorem addSpan_travel (first last : Nat) (cause : SpanCause) (s : State) : (addSpan first last cause s).travel = s.travel :=
  (congrArg State.travel (addSpan_frame first last cause s) :)
@[simp] theorem addSpan_intake (first last : Nat) (cause : SpanCause) (s : State) : (addSpan first last cause s).intake = s.intake :=
  (congrArg State.intake (addSpan_frame first last cause s) :)
@[simp] theorem addSpan_refs (first last : Nat) (cause : SpanCause) (s : State) : (addSpan first last cause s).refs = s.refs :=
  (congrArg State.refs (addSpan_frame first last cause s) :)
@[simp] theorem addSpan_assembler (first last : Nat) (cause : SpanCause) (s : State) : (addSpan first last cause s).assembler = s.assembler :=
  (congrArg State.assembler (addSpan_frame first last cause s) :)
@[simp] theorem addSpan_production (first last : Nat) (cause : SpanCause) (s : State) : (addSpan first last cause s).production = s.production :=
  (congrArg State.production (addSpan_frame first last cause s) :)
@[simp] theorem addSpan_recipes (first last : Nat) (cause : SpanCause) (s : State) : (addSpan first last cause s).recipes = s.recipes :=
  (congrArg State.recipes (addSpan_frame first last cause s) :)
@[simp] theorem addSpan_planner (first last : Nat) (cause : SpanCause) (s : State) : (addSpan first last cause s).planner = s.planner :=
  (congrArg State.planner (addSpan_frame first last cause s) :)
@[simp] theorem addSpan_dispatcher (first last : Nat) (cause : SpanCause) (s : State) : (addSpan first last cause s).dispatcher = s.dispatcher :=
  (congrArg State.dispatcher (addSpan_frame first last cause s) :)
@[simp] theorem addSpan_grader (first last : Nat) (cause : SpanCause) (s : State) : (addSpan first last cause s).grader = s.grader :=
  (congrArg State.grader (addSpan_frame first last cause s) :)
@[simp] theorem addSpan_accounts (first last : Nat) (cause : SpanCause) (s : State) : (addSpan first last cause s).accounts = s.accounts :=
  (congrArg State.accounts (addSpan_frame first last cause s) :)
@[simp] theorem addSpan_pending (first last : Nat) (cause : SpanCause) (s : State) : (addSpan first last cause s).pending = s.pending :=
  (congrArg State.pending (addSpan_frame first last cause s) :)
@[simp] theorem addSpan_map_flaws (first last : Nat) (cause : SpanCause) (s : State) :
    (addSpan first last cause s).map.flaws = s.map.flaws := (congrArg RibbonMap.flaws (addSpan_map_frame first last cause s) :)
@[simp] theorem addSpan_map_nextNumber (first last : Nat) (cause : SpanCause) (s : State) :
    (addSpan first last cause s).map.nextNumber = s.map.nextNumber := (congrArg RibbonMap.nextNumber (addSpan_map_frame first last cause s) :)
@[simp] theorem addSpan_map_w (first last : Nat) (cause : SpanCause) (s : State) :
    (addSpan first last cause s).map.w = s.map.w := (congrArg RibbonMap.w (addSpan_map_frame first last cause s) :)
@[simp] theorem addSpan_map_eClosed (first last : Nat) (cause : SpanCause) (s : State) :
    (addSpan first last cause s).map.eClosed = s.map.eClosed := (congrArg RibbonMap.eClosed (addSpan_map_frame first last cause s) :)

theorem addSpan_of_released {first last : Nat} (cause : SpanCause) {s : State} (h : min last 4294967295 < s.map.eClosed) :
    addSpan first last cause s = s := by
  simp [addSpan, Config.rcMax, h]

theorem addSpan_spans {first last : Nat} (cause : SpanCause) {s : State} (h : s.map.eClosed ≤ min last 4294967295) :
    (addSpan first last cause s).map.spans =
      (mergeSpan ⟨min first 4294967295, min last 4294967295, cause.bit⟩ s.map.spans).1 := by
  have h' : ¬min last Config.rcMax < s.map.eClosed := Nat.not_lt.2 h
  unfold addSpan
  simp only [h', if_false]
  split <;> rfl

theorem Span.join_comm (x y : Span) : x.join y = y.join x := by
  simp [Span.join, Nat.min_comm, Nat.max_comm, BitVec.or_comm]

/-- An overflow merge keeps the number of spans. -/
theorem mergeNearest_length (x : Span) : ∀ spans : List Span, spans ≠ [] → (mergeNearest x spans).length = spans.length
  | [], h => absurd rfl h
  | [_], _ => rfl
  | y :: z :: rest, _ => by
    unfold mergeNearest
    split
    · rfl
    · split
      · simpa using mergeNearest_length x (z :: rest) (by simp)
      · split <;> rfl

/-- A list of at most eight spans stays one (R85). -/
theorem mergeSpan_length (x : Span) {spans : List Span} (h : spans.length ≤ 8) : (mergeSpan x spans).1.length ≤ 8 := by
  unfold mergeSpan insertSpan
  simp only
  split
  · rename_i hne
    have hpart := List.length_eq_countP_add_countP (Span.touches x.first x.last) (l := spans)
    rw [List.countP_eq_length_filter, List.countP_eq_length_filter] at hpart
    have hnot : (spans.filter fun y => decide ¬Span.touches x.first x.last y = true) =
        spans.filter fun y => !y.touches x.first x.last := by
      congr 1
      funext y
      cases Span.touches x.first x.last y <;> rfl
    rw [hnot] at hpart
    have hpos : 0 < (spans.filter (Span.touches x.first x.last)).length := by
      rw [List.length_pos_iff]
      simpa using hne
    simp only [insertOrdered_length]
    omega
  · split
    · rename_i hlt
      simp only [Config.spanCapacity] at hlt
      simp only [insertOrdered_length]
      omega
    · rename_i hge
      simp only [Config.spanCapacity] at hge
      rw [mergeNearest_length x spans (by intro e; simp [e] at hge)]
      exact h

/-! ## The flaw map -/

/-- The number a flaw is stored under (R82). -/
theorem firstFreeNumber_le (flaws : List FlawRecord) :
    ∀ (tries n : Nat), n ≤ 65535 → firstFreeNumber flaws tries n ≤ 65535
  | 0, _, h => h
  | tries + 1, n, h => by
    unfold firstFreeNumber
    split
    · exact firstFreeNumber_le flaws tries _ (wrapSucc_le n)
    · exact h

theorem wrapSucc_add {n : Nat} (h : n ≤ 65535) (i : Nat) : (wrapSucc n + i) % 65536 = (n + (i + 1)) % 65536 := by
  unfold wrapSucc Config.countMax
  split
  · congr 1; omega
  · obtain rfl : n = 65535 := by omega
    omega

/-- The number a flaw takes is the first from the counter on, in at most so many tries, that no record carries; if the tries
run out, all of them were carried (R82). -/
theorem firstFreeNumber_spec (flaws : List FlawRecord) :
    ∀ (tries n : Nat), n ≤ 65535 →
      ∃ k, k ≤ tries ∧ firstFreeNumber flaws tries n = (n + k) % 65536 ∧
        (∀ i, i < k → carriesNumber flaws ((n + i) % 65536) = true) ∧
        (k < tries → carriesNumber flaws ((n + k) % 65536) = false)
  | 0, n, h => ⟨0, Nat.le_refl _, (Nat.mod_eq_of_lt (Nat.lt_succ_of_le h)).symm, by simp, by simp⟩
  | tries + 1, n, h => by
    have hn : (n + 0) % 65536 = n := Nat.mod_eq_of_lt (Nat.lt_succ_of_le h)
    unfold firstFreeNumber
    by_cases hc : carriesNumber flaws n = true
    · obtain ⟨k, hk, hfirst, hbefore, hfree⟩ := firstFreeNumber_spec flaws tries (wrapSucc n) (wrapSucc_le n)
      rw [if_pos hc]
      refine ⟨k + 1, Nat.succ_le_succ hk, by rw [hfirst, wrapSucc_add h], fun i hi => ?_, fun hlt => ?_⟩
      · cases i with
        | zero => rw [hn]; exact hc
        | succ i => rw [← wrapSucc_add h]; exact hbefore i (Nat.lt_of_succ_lt_succ hi)
      · rw [← wrapSucc_add h]
        exact hfree (Nat.lt_of_succ_lt_succ hlt)
    · rw [if_neg hc]
      exact ⟨0, Nat.zero_le _, hn.symm, by simp, fun _ => by rw [hn]; simpa using hc⟩

/-- Storing writes the records and the numbering counter alone (R82, R83). -/
theorem store_frame (f : FlawRecord) (m : RibbonMap) :
    { m.store f with flaws := m.flaws, nextNumber := m.nextNumber } = m := rfl

theorem store_perm (f : FlawRecord) (m : RibbonMap) :
    (m.store f).flaws.Perm ({ f with number := firstFreeNumber m.flaws m.flaws.length m.nextNumber } :: m.flaws) :=
  insertOrdered_perm _ _ _

/-- A hand-off writes the map, the accounts and the supervisor's flags alone (R83, R84). -/
theorem handOver_frame (f : FlawRecord) (s : State) :
    { handOver f s with map := s.map, accounts := s.accounts, links := s.links } = s := by
  unfold handOver countFaintDropped
  split
  · rfl
  · split
    · rfl
    · split
      · rfl
      · exact
          (congrArg (fun t : State => { t with accounts := s.accounts })
            (addSpan_frame f.firstRow f.lastRow .mapFull (s.count fun c => { c with mapFull := bump c.mapFull })) :)

@[simp] theorem handOver_mode (f : FlawRecord) (s : State) : (handOver f s).mode = s.mode :=
  (congrArg State.mode (handOver_frame f s) :)
@[simp] theorem handOver_switch (f : FlawRecord) (s : State) : (handOver f s).switch = s.switch :=
  (congrArg State.switch (handOver_frame f s) :)
@[simp] theorem handOver_inReset (f : FlawRecord) (s : State) : (handOver f s).inReset = s.inReset :=
  (congrArg State.inReset (handOver_frame f s) :)
@[simp] theorem handOver_conf (f : FlawRecord) (s : State) : (handOver f s).conf = s.conf :=
  (congrArg State.conf (handOver_frame f s) :)
@[simp] theorem handOver_travel (f : FlawRecord) (s : State) : (handOver f s).travel = s.travel :=
  (congrArg State.travel (handOver_frame f s) :)
@[simp] theorem handOver_intake (f : FlawRecord) (s : State) : (handOver f s).intake = s.intake :=
  (congrArg State.intake (handOver_frame f s) :)
@[simp] theorem handOver_refs (f : FlawRecord) (s : State) : (handOver f s).refs = s.refs :=
  (congrArg State.refs (handOver_frame f s) :)
@[simp] theorem handOver_assembler (f : FlawRecord) (s : State) : (handOver f s).assembler = s.assembler :=
  (congrArg State.assembler (handOver_frame f s) :)
@[simp] theorem handOver_production (f : FlawRecord) (s : State) : (handOver f s).production = s.production :=
  (congrArg State.production (handOver_frame f s) :)
@[simp] theorem handOver_recipes (f : FlawRecord) (s : State) : (handOver f s).recipes = s.recipes :=
  (congrArg State.recipes (handOver_frame f s) :)
@[simp] theorem handOver_planner (f : FlawRecord) (s : State) : (handOver f s).planner = s.planner :=
  (congrArg State.planner (handOver_frame f s) :)
@[simp] theorem handOver_dispatcher (f : FlawRecord) (s : State) : (handOver f s).dispatcher = s.dispatcher :=
  (congrArg State.dispatcher (handOver_frame f s) :)
@[simp] theorem handOver_grader (f : FlawRecord) (s : State) : (handOver f s).grader = s.grader :=
  (congrArg State.grader (handOver_frame f s) :)
@[simp] theorem handOver_pending (f : FlawRecord) (s : State) : (handOver f s).pending = s.pending :=
  (congrArg State.pending (handOver_frame f s) :)

@[simp] theorem handOver_w (f : FlawRecord) (s : State) : (handOver f s).map.w = s.map.w := by
  unfold handOver countFaintDropped RibbonMap.store
  split <;> (try split) <;> (try split) <;> simp

@[simp] theorem handOver_eClosed (f : FlawRecord) (s : State) : (handOver f s).map.eClosed = s.map.eClosed := by
  unfold handOver countFaintDropped RibbonMap.store
  split <;> (try split) <;> (try split) <;> simp

/-! ## Release -/

/-- A release writes E_closed, the records and the spans, and drops what lies behind E_closed (R90). -/
theorem release_spec (e : Nat) (m : RibbonMap) :
    (m.release e).eClosed = max m.eClosed e ∧ (m.release e).w = m.w ∧ (m.release e).nextNumber = m.nextNumber ∧
      (∀ f, f ∈ (m.release e).flaws ↔ f ∈ m.flaws ∧ max m.eClosed e ≤ f.lastRow) ∧
      ∀ x, x ∈ (m.release e).spans ↔ x ∈ m.spans ∧ max m.eClosed e ≤ x.last := by
  simp [RibbonMap.release, List.mem_filter]

end Sys2Proof.Machine
end

