-- ==== Sys2Proof/Laws/Assembler.lean ====
section
/-!
SUPPORT. The assembler's operations: what closing flaws, sweeping and assembling may write, and what the slots of the open
flaw table hold afterwards.
-/

namespace Sys2Proof.Machine

/-! ## Slots -/

theorem mem_openFlaws {t : FlawTable} {x : Slotted} : x ∈ t.openFlaws ↔ t.slots[x.slot] = some x.flaw := by
  unfold FlawTable.openFlaws
  rw [List.mem_filterMap]
  constructor
  · rintro ⟨i, -, h⟩
    rcases hs : t.slots[i] with _ | f
    · rw [hs] at h; simp at h
    · rw [hs] at h
      simp only [Option.map_some, Option.some.injEq] at h
      subst h
      exact hs
  · intro h
    exact ⟨x.slot, List.mem_finRange _, by rw [h]; rfl⟩

@[simp] theorem put_assembly (i : Fin 32) (f : OpenFlaw) (t : FlawTable) : (t.put i f).assembly = t.assembly := rfl
@[simp] theorem free_assembly (i : Fin 32) (t : FlawTable) : (t.free i).assembly = t.assembly := rfl

theorem slots_put (i j : Fin 32) (f : OpenFlaw) (t : FlawTable) :
    (t.put i f).slots[j] = if i = j then some f else t.slots[j] := by
  simp [FlawTable.put, Vector.getElem_set, Fin.ext_iff]

theorem slots_free (i j : Fin 32) (t : FlawTable) : (t.free i).slots[j] = if i = j then none else t.slots[j] := by
  simp [FlawTable.free, Vector.getElem_set, Fin.ext_iff]

/-! ## Closing -/

/-- The closing sequence writes the map, the accounts and the supervisor's flags alone (R70). -/
theorem closeRecord_frame (f : OpenFlaw) (forced : Bool) (s : State) :
    { closeRecord f forced s with map := s.map, accounts := s.accounts, links := s.links } = s := by
  unfold closeRecord
  split
  · rfl
  · simp only
    split
    · rfl
    · exact
        (congrArg (fun t : State => { t with accounts := s.accounts }) (handOver_frame _ (s.count (Counts.addFlaw f.kind _))) :)

@[simp] theorem closeRecord_mode (f : OpenFlaw) (forced : Bool) (s : State) : (closeRecord f forced s).mode = s.mode :=
  (congrArg State.mode (closeRecord_frame f forced s) :)
@[simp] theorem closeRecord_switch (f : OpenFlaw) (forced : Bool) (s : State) : (closeRecord f forced s).switch = s.switch :=
  (congrArg State.switch (closeRecord_frame f forced s) :)
@[simp] theorem closeRecord_inReset (f : OpenFlaw) (forced : Bool) (s : State) : (closeRecord f forced s).inReset = s.inReset :=
  (congrArg State.inReset (closeRecord_frame f forced s) :)
@[simp] theorem closeRecord_conf (f : OpenFlaw) (forced : Bool) (s : State) : (closeRecord f forced s).conf = s.conf :=
  (congrArg State.conf (closeRecord_frame f forced s) :)
@[simp] theorem closeRecord_travel (f : OpenFlaw) (forced : Bool) (s : State) : (closeRecord f forced s).travel = s.travel :=
  (congrArg State.travel (closeRecord_frame f forced s) :)
@[simp] theorem closeRecord_intake (f : OpenFlaw) (forced : Bool) (s : State) : (closeRecord f forced s).intake = s.intake :=
  (congrArg State.intake (closeRecord_frame f forced s) :)
@[simp] theorem closeRecord_refs (f : OpenFlaw) (forced : Bool) (s : State) : (closeRecord f forced s).refs = s.refs :=
  (congrArg State.refs (closeRecord_frame f forced s) :)
@[simp] theorem closeRecord_assembler (f : OpenFlaw) (forced : Bool) (s : State) : (closeRecord f forced s).assembler = s.assembler :=
  (congrArg State.assembler (closeRecord_frame f forced s) :)
@[simp] theorem closeRecord_production (f : OpenFlaw) (forced : Bool) (s : State) : (closeRecord f forced s).production = s.production :=
  (congrArg State.production (closeRecord_frame f forced s) :)
@[simp] theorem closeRecord_recipes (f : OpenFlaw) (forced : Bool) (s : State) : (closeRecord f forced s).recipes = s.recipes :=
  (congrArg State.recipes (closeRecord_frame f forced s) :)
@[simp] theorem closeRecord_planner (f : OpenFlaw) (forced : Bool) (s : State) : (closeRecord f forced s).planner = s.planner :=
  (congrArg State.planner (closeRecord_frame f forced s) :)
@[simp] theorem closeRecord_dispatcher (f : OpenFlaw) (forced : Bool) (s : State) : (closeRecord f forced s).dispatcher = s.dispatcher :=
  (congrArg State.dispatcher (closeRecord_frame f forced s) :)
@[simp] theorem closeRecord_grader (f : OpenFlaw) (forced : Bool) (s : State) : (closeRecord f forced s).grader = s.grader :=
  (congrArg State.grader (closeRecord_frame f forced s) :)
@[simp] theorem closeRecord_pending (f : OpenFlaw) (forced : Bool) (s : State) : (closeRecord f forced s).pending = s.pending :=
  (congrArg State.pending (closeRecord_frame f forced s) :)

@[simp] theorem closeRecord_w (f : OpenFlaw) (forced : Bool) (s : State) : (closeRecord f forced s).map.w = s.map.w := by
  unfold closeRecord
  split <;> (try (simp only; split)) <;> simp

@[simp] theorem closeRecord_eClosed (f : OpenFlaw) (forced : Bool) (s : State) :
    (closeRecord f forced s).map.eClosed = s.map.eClosed := by
  unfold closeRecord
  split <;> (try (simp only; split)) <;> simp

/-- A closed flaw's slot is free, and the other slots hold what they held (R70). -/
@[simp] theorem closeFlaw_assembler (forced : Bool) (x : Slotted) (s : State) :
    (closeFlaw forced x s).assembler = s.assembler.free x.slot := by
  simp [closeFlaw]

@[simp] theorem closeFlaw_w (forced : Bool) (x : Slotted) (s : State) : (closeFlaw forced x s).map.w = s.map.w := by
  simp [closeFlaw]

@[simp] theorem closeFlaw_eClosed (forced : Bool) (x : Slotted) (s : State) :
    (closeFlaw forced x s).map.eClosed = s.map.eClosed := by
  simp [closeFlaw]

/-- Closing a flaw writes the table, the map, the accounts and the links' flags alone (R70). -/
theorem closeFlaw_frame (forced : Bool) (x : Slotted) (s : State) :
    { closeFlaw forced x s with assembler := s.assembler, map := s.map, accounts := s.accounts, links := s.links } = s := by
  have h := closeRecord_frame x.flaw forced s
  exact (congrArg (fun t : State => { t with assembler := s.assembler }) h :)

@[simp] theorem closeFlaw_mode (forced : Bool) (x : Slotted) (s : State) : (closeFlaw forced x s).mode = s.mode :=
  (congrArg State.mode (closeFlaw_frame forced x s) :)
@[simp] theorem closeFlaw_switch (forced : Bool) (x : Slotted) (s : State) : (closeFlaw forced x s).switch = s.switch :=
  (congrArg State.switch (closeFlaw_frame forced x s) :)
@[simp] theorem closeFlaw_inReset (forced : Bool) (x : Slotted) (s : State) : (closeFlaw forced x s).inReset = s.inReset :=
  (congrArg State.inReset (closeFlaw_frame forced x s) :)
@[simp] theorem closeFlaw_conf (forced : Bool) (x : Slotted) (s : State) : (closeFlaw forced x s).conf = s.conf :=
  (congrArg State.conf (closeFlaw_frame forced x s) :)
@[simp] theorem closeFlaw_travel (forced : Bool) (x : Slotted) (s : State) : (closeFlaw forced x s).travel = s.travel :=
  (congrArg State.travel (closeFlaw_frame forced x s) :)
@[simp] theorem closeFlaw_intake (forced : Bool) (x : Slotted) (s : State) : (closeFlaw forced x s).intake = s.intake :=
  (congrArg State.intake (closeFlaw_frame forced x s) :)
@[simp] theorem closeFlaw_refs (forced : Bool) (x : Slotted) (s : State) : (closeFlaw forced x s).refs = s.refs :=
  (congrArg State.refs (closeFlaw_frame forced x s) :)
@[simp] theorem closeFlaw_production (forced : Bool) (x : Slotted) (s : State) : (closeFlaw forced x s).production = s.production :=
  (congrArg State.production (closeFlaw_frame forced x s) :)
@[simp] theorem closeFlaw_recipes (forced : Bool) (x : Slotted) (s : State) : (closeFlaw forced x s).recipes = s.recipes :=
  (congrArg State.recipes (closeFlaw_frame forced x s) :)
@[simp] theorem closeFlaw_planner (forced : Bool) (x : Slotted) (s : State) : (closeFlaw forced x s).planner = s.planner :=
  (congrArg State.planner (closeFlaw_frame forced x s) :)
@[simp] theorem closeFlaw_dispatcher (forced : Bool) (x : Slotted) (s : State) : (closeFlaw forced x s).dispatcher = s.dispatcher :=
  (congrArg State.dispatcher (closeFlaw_frame forced x s) :)
@[simp] theorem closeFlaw_grader (forced : Bool) (x : Slotted) (s : State) : (closeFlaw forced x s).grader = s.grader :=
  (congrArg State.grader (closeFlaw_frame forced x s) :)
@[simp] theorem closeFlaw_pending (forced : Bool) (x : Slotted) (s : State) : (closeFlaw forced x s).pending = s.pending :=
  (congrArg State.pending (closeFlaw_frame forced x s) :)

/-- A forced close writes what a close writes (R66). -/
theorem forceClose_frame (x : Slotted) (s : State) :
    { forceClose x s with assembler := s.assembler, map := s.map, accounts := s.accounts, links := s.links } = s := by
  have h := closeFlaw_frame true x (raise .forced (s.count fun c => { c with forcedCloses := bump c.forcedCloses }))
  have h' := (congrArg
    (fun t : State => { t with assembler := s.assembler, map := s.map, accounts := s.accounts, links := s.links }) h :)
  unfold forceClose
  simp only
  split
  · exact h'
  · refine Eq.trans ?_ h'
    exact (congrArg
      (fun t : State => { t with assembler := s.assembler, map := s.map, accounts := s.accounts, links := s.links })
      (addSpan_frame _ _ _ _) :)

@[simp] theorem forceClose_mode (x : Slotted) (s : State) : (forceClose x s).mode = s.mode :=
  (congrArg State.mode (forceClose_frame x s) :)
@[simp] theorem forceClose_switch (x : Slotted) (s : State) : (forceClose x s).switch = s.switch :=
  (congrArg State.switch (forceClose_frame x s) :)
@[simp] theorem forceClose_inReset (x : Slotted) (s : State) : (forceClose x s).inReset = s.inReset :=
  (congrArg State.inReset (forceClose_frame x s) :)
@[simp] theorem forceClose_conf (x : Slotted) (s : State) : (forceClose x s).conf = s.conf :=
  (congrArg State.conf (forceClose_frame x s) :)
@[simp] theorem forceClose_travel (x : Slotted) (s : State) : (forceClose x s).travel = s.travel :=
  (congrArg State.travel (forceClose_frame x s) :)
@[simp] theorem forceClose_intake (x : Slotted) (s : State) : (forceClose x s).intake = s.intake :=
  (congrArg State.intake (forceClose_frame x s) :)
@[simp] theorem forceClose_refs (x : Slotted) (s : State) : (forceClose x s).refs = s.refs :=
  (congrArg State.refs (forceClose_frame x s) :)
@[simp] theorem forceClose_production (x : Slotted) (s : State) : (forceClose x s).production = s.production :=
  (congrArg State.production (forceClose_frame x s) :)
@[simp] theorem forceClose_recipes (x : Slotted) (s : State) : (forceClose x s).recipes = s.recipes :=
  (congrArg State.recipes (forceClose_frame x s) :)
@[simp] theorem forceClose_planner (x : Slotted) (s : State) : (forceClose x s).planner = s.planner :=
  (congrArg State.planner (forceClose_frame x s) :)
@[simp] theorem forceClose_dispatcher (x : Slotted) (s : State) : (forceClose x s).dispatcher = s.dispatcher :=
  (congrArg State.dispatcher (forceClose_frame x s) :)
@[simp] theorem forceClose_grader (x : Slotted) (s : State) : (forceClose x s).grader = s.grader :=
  (congrArg State.grader (forceClose_frame x s) :)
@[simp] theorem forceClose_pending (x : Slotted) (s : State) : (forceClose x s).pending = s.pending :=
  (congrArg State.pending (forceClose_frame x s) :)

/-- Closing flaws in turn writes what one close writes. -/
theorem closeAll_frame (xs : List Slotted) (s : State) :
    { xs.foldl (fun s x => closeFlaw false x s) s with
      assembler := s.assembler, map := s.map, accounts := s.accounts, links := s.links } = s := by
  induction xs generalizing s with
  | nil => rfl
  | cons x xs ih =>
    have h := (congrArg
      (fun t : State => { t with assembler := s.assembler, map := s.map, accounts := s.accounts, links := s.links })
      (ih (closeFlaw false x s)) :)
    exact Eq.trans h (closeFlaw_frame false x s)

/-- A sweep writes what closing its flaws writes (R67). -/
theorem sweep_frame (s : State) :
    { sweep s with assembler := s.assembler, map := s.map, accounts := s.accounts, links := s.links } = s :=
  closeAll_frame _ _

@[simp] theorem sweep_mode (s : State) : (sweep s).mode = s.mode :=
  (congrArg State.mode (sweep_frame s) :)
@[simp] theorem sweep_switch (s : State) : (sweep s).switch = s.switch :=
  (congrArg State.switch (sweep_frame s) :)
@[simp] theorem sweep_inReset (s : State) : (sweep s).inReset = s.inReset :=
  (congrArg State.inReset (sweep_frame s) :)
@[simp] theorem sweep_conf (s : State) : (sweep s).conf = s.conf :=
  (congrArg State.conf (sweep_frame s) :)
@[simp] theorem sweep_travel (s : State) : (sweep s).travel = s.travel :=
  (congrArg State.travel (sweep_frame s) :)
@[simp] theorem sweep_intake (s : State) : (sweep s).intake = s.intake :=
  (congrArg State.intake (sweep_frame s) :)
@[simp] theorem sweep_refs (s : State) : (sweep s).refs = s.refs :=
  (congrArg State.refs (sweep_frame s) :)
@[simp] theorem sweep_production (s : State) : (sweep s).production = s.production :=
  (congrArg State.production (sweep_frame s) :)
@[simp] theorem sweep_recipes (s : State) : (sweep s).recipes = s.recipes :=
  (congrArg State.recipes (sweep_frame s) :)
@[simp] theorem sweep_planner (s : State) : (sweep s).planner = s.planner :=
  (congrArg State.planner (sweep_frame s) :)
@[simp] theorem sweep_dispatcher (s : State) : (sweep s).dispatcher = s.dispatcher :=
  (congrArg State.dispatcher (sweep_frame s) :)
@[simp] theorem sweep_grader (s : State) : (sweep s).grader = s.grader :=
  (congrArg State.grader (sweep_frame s) :)
@[simp] theorem sweep_pending (s : State) : (sweep s).pending = s.pending :=
  (congrArg State.pending (sweep_frame s) :)

@[simp] theorem sweep_w (s : State) : (sweep s).map.w = s.map.w := by
  unfold sweep
  generalize s.sweepList = xs
  induction xs generalizing s with
  | nil => rfl
  | cons x xs ih => simp [ih]

/-! ## Assembling -/

/-- Assembling a detection writes what a forced close writes (R59, R66). -/
theorem assemble_frame (m : Measured) (late : Bool) (s : State) :
    { (assemble m late s).1 with assembler := s.assembler, map := s.map, accounts := s.accounts, links := s.links } =
      s := by
  unfold assemble
  simp only
  split
  · unfold openNew
    simp only
    split
    · rfl
    · rfl
    · exact (congrArg
        (fun t : State => { t with assembler := s.assembler, map := s.map, accounts := s.accounts, links := s.links })
        (forceClose_frame _ s) :)
  · rfl

@[simp] theorem assemble_mode (m : Measured) (late : Bool) (s : State) : ((assemble m late s).1).mode = s.mode :=
  (congrArg State.mode (assemble_frame m late s) :)
@[simp] theorem assemble_switch (m : Measured) (late : Bool) (s : State) : ((assemble m late s).1).switch = s.switch :=
  (congrArg State.switch (assemble_frame m late s) :)
@[simp] theorem assemble_inReset (m : Measured) (late : Bool) (s : State) : ((assemble m late s).1).inReset = s.inReset :=
  (congrArg State.inReset (assemble_frame m late s) :)
@[simp] theorem assemble_conf (m : Measured) (late : Bool) (s : State) : ((assemble m late s).1).conf = s.conf :=
  (congrArg State.conf (assemble_frame m late s) :)
@[simp] theorem assemble_travel (m : Measured) (late : Bool) (s : State) : ((assemble m late s).1).travel = s.travel :=
  (congrArg State.travel (assemble_frame m late s) :)
@[simp] theorem assemble_intake (m : Measured) (late : Bool) (s : State) : ((assemble m late s).1).intake = s.intake :=
  (congrArg State.intake (assemble_frame m late s) :)
@[simp] theorem assemble_refs (m : Measured) (late : Bool) (s : State) : ((assemble m late s).1).refs = s.refs :=
  (congrArg State.refs (assemble_frame m late s) :)
@[simp] theorem assemble_production (m : Measured) (late : Bool) (s : State) : ((assemble m late s).1).production = s.production :=
  (congrArg State.production (assemble_frame m late s) :)
@[simp] theorem assemble_recipes (m : Measured) (late : Bool) (s : State) : ((assemble m late s).1).recipes = s.recipes :=
  (congrArg State.recipes (assemble_frame m late s) :)
@[simp] theorem assemble_planner (m : Measured) (late : Bool) (s : State) : ((assemble m late s).1).planner = s.planner :=
  (congrArg State.planner (assemble_frame m late s) :)
@[simp] theorem assemble_dispatcher (m : Measured) (late : Bool) (s : State) : ((assemble m late s).1).dispatcher = s.dispatcher :=
  (congrArg State.dispatcher (assemble_frame m late s) :)
@[simp] theorem assemble_grader (m : Measured) (late : Bool) (s : State) : ((assemble m late s).1).grader = s.grader :=
  (congrArg State.grader (assemble_frame m late s) :)
@[simp] theorem assemble_pending (m : Measured) (late : Bool) (s : State) : ((assemble m late s).1).pending = s.pending :=
  (congrArg State.pending (assemble_frame m late s) :)

/-- The completion of a DETECTION entry writes the table, the map, the accounts and the links' flags alone (R59 to R66). -/
theorem completeDetection_frame (d : Detection) (s : State) :
    { completeDetection d s with assembler := s.assembler, map := s.map, accounts := s.accounts, links := s.links } =
      s := by
  unfold completeDetection
  simp only
  split
  · split
    · rfl
    · generalize hu : raise .late (s.count fun c => { c with late := bump c.late }) = u
      have hframe : { u with assembler := s.assembler, map := s.map, accounts := s.accounts, links := s.links } = s := by
        rw [← hu]; rfl
      have hassemble := (congrArg
        (fun t : State => { t with assembler := s.assembler, map := s.map, accounts := s.accounts, links := s.links })
        (assemble_frame (measure s.refs d) true u) :)
      generalize assemble (measure s.refs d) true u = r at hassemble ⊢
      split
      · exact ((congrArg
          (fun t : State => { t with assembler := s.assembler, map := s.map, accounts := s.accounts, links := s.links })
          (closeFlaw_frame false r.2 r.1) :).trans hassemble).trans hframe
      · exact Eq.trans hassemble hframe
  · exact assemble_frame _ _ _

/-! ## Classes and points -/

/-- The points of a flaw fit twelve bits (R77). -/
theorem pointsOf_le (e : KindEntry) (cls : FlawClass) (contrast size : Nat) : pointsOf e cls contrast size ≤ 4095 := by
  unfold pointsOf
  split
  · exact Nat.zero_le _
  · exact Nat.min_le_left _ _

/-- A contrast index fits eight bits (R54). -/
theorem contrastOf_le (x : Reference) (peak : Nat) : contrastOf x peak ≤ 255 := by
  unfold contrastOf
  split
  · exact Nat.min_le_left _ _
  · exact Nat.le_refl _

end Sys2Proof.Machine
end

