-- ==== Sys2Proof/Laws/Travel.lean ====
section
/-!
SUPPORT. The travel unit: a pulse's count and compares, the arming of the compares, and the hand-offs of the time of day.
-/

namespace Sys2Proof.Machine

/-! ## The pulse -/

/-- P never falls at a pulse, and stays with the remainder in range (R3). -/
theorem pulseCount_spec {p r u : Nat} (hp : p ≤ 4294967295) :
    p ≤ (pulseCount p r u).1 ∧ (pulseCount p r u).1 ≤ 4294967295 ∧ (pulseCount p r u).2 ≤ 999 := by
  unfold pulseCount Config.rcMax
  split <;> simp <;> omega

theorem raiseDeadline_of_none (conf : Conf) {t : Travel} (h : t.deadline = none) : t.raiseDeadline conf = t := by
  simp [Travel.raiseDeadline, h]

theorem raiseExpiry_of_none (conf : Conf) {t : Travel} (h : t.expiry = none) : t.raiseExpiry conf = t := by
  simp [Travel.raiseExpiry, h]

/-- A raise of the deadline writes the deadline compare alone. -/
theorem raiseDeadline_frame (conf : Conf) (t : Travel) :
    { t.raiseDeadline conf with deadline := t.deadline, deadlineRaised := t.deadlineRaised } = t := by
  unfold Travel.raiseDeadline
  split <;> (try split) <;> rfl

/-- A raise of the expiry writes the expiry compare alone. -/
theorem raiseExpiry_frame (conf : Conf) (t : Travel) :
    { t.raiseExpiry conf with expiry := t.expiry, expiryRaised := t.expiryRaised } = t := by
  unfold Travel.raiseExpiry
  split <;> (try split) <;> rfl

@[simp] theorem raiseDeadline_p (conf : Conf) (t : Travel) : (t.raiseDeadline conf).p = t.p :=
  (congrArg Travel.p (raiseDeadline_frame conf t) :)
@[simp] theorem raiseDeadline_remainder (conf : Conf) (t : Travel) : (t.raiseDeadline conf).remainder = t.remainder :=
  (congrArg Travel.remainder (raiseDeadline_frame conf t) :)
@[simp] theorem raiseDeadline_expiry (conf : Conf) (t : Travel) : (t.raiseDeadline conf).expiry = t.expiry :=
  (congrArg Travel.expiry (raiseDeadline_frame conf t) :)
@[simp] theorem raiseDeadline_expiryRaised (conf : Conf) (t : Travel) :
    (t.raiseDeadline conf).expiryRaised = t.expiryRaised :=
  (congrArg Travel.expiryRaised (raiseDeadline_frame conf t) :)
@[simp] theorem raiseExpiry_p (conf : Conf) (t : Travel) : (t.raiseExpiry conf).p = t.p :=
  (congrArg Travel.p (raiseExpiry_frame conf t) :)
@[simp] theorem raiseExpiry_remainder (conf : Conf) (t : Travel) : (t.raiseExpiry conf).remainder = t.remainder :=
  (congrArg Travel.remainder (raiseExpiry_frame conf t) :)
@[simp] theorem raiseExpiry_deadline (conf : Conf) (t : Travel) : (t.raiseExpiry conf).deadline = t.deadline :=
  (congrArg Travel.deadline (raiseExpiry_frame conf t) :)
@[simp] theorem raiseExpiry_deadlineRaised (conf : Conf) (t : Travel) :
    (t.raiseExpiry conf).deadlineRaised = t.deadlineRaised :=
  (congrArg Travel.deadlineRaised (raiseExpiry_frame conf t) :)

@[simp] theorem armDeadline_p (start : Nat) (s : State) : (armDeadline start s).travel.p = s.travel.p := by
  simp [armDeadline]
@[simp] theorem armDeadline_remainder (start : Nat) (s : State) :
    (armDeadline start s).travel.remainder = s.travel.remainder := by
  simp [armDeadline]
@[simp] theorem armExpiry_p (seq target : Nat) (s : State) : (armExpiry seq target s).travel.p = s.travel.p := by
  simp [armExpiry]
@[simp] theorem armExpiry_remainder (seq target : Nat) (s : State) :
    (armExpiry seq target s).travel.remainder = s.travel.remainder := by
  simp [armExpiry]
@[simp] theorem armExpiry_deadline (seq target : Nat) (s : State) :
    (armExpiry seq target s).travel.deadline = s.travel.deadline := by
  simp [armExpiry]
@[simp] theorem armExpiry_deadlineRaised (seq target : Nat) (s : State) :
    (armExpiry seq target s).travel.deadlineRaised = s.travel.deadlineRaised := by
  simp [armExpiry]

/-- The deadline armed with `start` waits while P is below the commit point, and else is raised (R7). -/
theorem armDeadline_spec (start : Nat) (s : State) :
    (s.travel.p < s.conf.commitPoint start →
        (armDeadline start s).travel.deadline = some start ∧
          (armDeadline start s).travel.deadlineRaised = s.travel.deadlineRaised) ∧
      (s.conf.commitPoint start ≤ s.travel.p →
        (armDeadline start s).travel.deadline = none ∧ (armDeadline start s).travel.deadlineRaised = some start) := by
  constructor <;> intro h
  · have : ¬s.conf.commitPoint start ≤ s.travel.p := by omega
    simp [armDeadline, Travel.raiseDeadline, this]
  · simp [armDeadline, Travel.raiseDeadline, h]

/-! ## STALE -/

/-- An evaluation of STALE writes the gantry link and the arm state alone (R33). -/
theorem evaluateStale_frame (s : State) : { evaluateStale s with links := s.links } = s := by
  unfold evaluateStale
  split <;> rfl

/-- A pulse writes the travel unit, and the links where STALE is raised (R2, R33). -/
theorem pulse_frame (s : State) : { pulse s with travel := s.travel, links := s.links } = s := by
  unfold pulse evaluateStale
  simp only
  split <;> (try split) <;> rfl

@[simp] theorem pulse_travel (s : State) : (pulse s).travel = s.travel.pulse s.conf := by
  unfold pulse evaluateStale
  simp only
  split <;> (try split) <;> rfl

/-- What a pulse answers on a working part. -/
theorem execEncPulse_of_working {s : State} (h : Working s) : execEncPulse s = .next (pulse s) := by
  refine (blockStep_of_working h _).trans ?_
  rw [setRisenLevels_of_fields]
  · exact (congrArg (fun s => s.dispatcher.cuts) (pulse_frame s) :)
  · exact (congrArg (fun s => s.dispatcher.routing) (pulse_frame s) :)
  · exact (congrArg (fun s => s.production.orders) (pulse_frame s) :)
  · exact (congrArg State.mode (pulse_frame s) :)

/-! ## The accounts' hand-offs -/

/-- A shift close writes the accounts and the SHIFT flag alone (R176). -/
theorem closeShift_frame (time cause : Nat) (s : State) :
    { closeShift time cause s with accounts := s.accounts, links := s.links } = s := rfl

/-- A step of the time of day writes the travel unit, the accounts and the SHIFT flag alone (R13, R173, R175). -/
theorem stepTime_frame (s : State) :
    { stepTime s with travel := s.travel, accounts := s.accounts, links := s.links } = s := by
  unfold stepTime accountsStep
  simp only
  split <;> rfl

/-- The stopped flag's setting writes the flag and the line stops alone (R12). -/
theorem setStopped_frame (s : State) : { setStopped s with travel := s.travel, accounts := s.accounts } = s := rfl

end Sys2Proof.Machine
end

