-- ==== Sys2Proof/Laws/Dispatcher.lean ====
section
/-!
SUPPORT. The dispatcher's operations: the order list's updates, the removal of rows, and what appending, losing and
reporting a cut may write.
-/

namespace Sys2Proof.Machine

/-! ## Orders -/

@[simp] theorem updateOrder_length (id : Nat) (f : Order → Order) (p : Production) :
    (p.updateOrder id f).orders.length = p.orders.length := updateFirst_length _ _ _

/-- Plates given back write the order list alone (R96). -/
theorem releasePlates_frame (order : Option Nat) (plates : Nat) (s : State) :
    { releasePlates order plates s with production := { s.production with orders := s.production.orders } } = s := by
  unfold releasePlates
  split
  · split <;> rfl
  · rfl

/-! ## Rows -/

/-- A removal keeps a run of the rows at the end, a removed one flagged left, and the row it starts with has not left
(R118). -/
theorem removeRow_head {id : Nat} {rows : List Row} (h : ∀ r, rows.head? = some r → r.left = false) {r : Row}
    (hr : (removeRow id rows).head? = some r) : r.left = false := by
  unfold removeRow at hr
  split at hr
  · have := List.head?_dropWhile_not Row.left (updateFirst (fun r => r.id == id) (fun r => { r with left := true }) rows)
    rw [hr] at this
    simpa using this
  · exact h r hr

theorem removeRow_length_le (id : Nat) (rows : List Row) : (removeRow id rows).length ≤ rows.length := by
  unfold removeRow
  split
  · refine Nat.le_trans (List.dropWhile_suffix _).length_le ?_
    simp
  · exact Nat.le_refl _

/-- A removal that names no row does nothing (R118). -/
theorem removeRow_of_none {id : Nat} {rows : List Row} (h : ∀ r ∈ rows, r.id ≠ id) : removeRow id rows = rows := by
  have : (rows.any fun r => r.id == id) = false := by simpa using h
  simp [removeRow, this]

/-! ## The compare -/

/-- Following the head writes the travel unit's expiry compare alone (R139). -/
theorem rearmExpiry_frame (s : State) : { rearmExpiry s with travel := s.travel } = s := by
  unfold rearmExpiry
  split <;> rfl

@[simp] theorem rearmExpiry_mode (s : State) : (rearmExpiry s).mode = s.mode :=
  (congrArg State.mode (rearmExpiry_frame s) :)
@[simp] theorem rearmExpiry_switch (s : State) : (rearmExpiry s).switch = s.switch :=
  (congrArg State.switch (rearmExpiry_frame s) :)
@[simp] theorem rearmExpiry_inReset (s : State) : (rearmExpiry s).inReset = s.inReset :=
  (congrArg State.inReset (rearmExpiry_frame s) :)
@[simp] theorem rearmExpiry_conf (s : State) : (rearmExpiry s).conf = s.conf :=
  (congrArg State.conf (rearmExpiry_frame s) :)
@[simp] theorem rearmExpiry_links (s : State) : (rearmExpiry s).links = s.links :=
  (congrArg State.links (rearmExpiry_frame s) :)
@[simp] theorem rearmExpiry_intake (s : State) : (rearmExpiry s).intake = s.intake :=
  (congrArg State.intake (rearmExpiry_frame s) :)
@[simp] theorem rearmExpiry_refs (s : State) : (rearmExpiry s).refs = s.refs :=
  (congrArg State.refs (rearmExpiry_frame s) :)
@[simp] theorem rearmExpiry_assembler (s : State) : (rearmExpiry s).assembler = s.assembler :=
  (congrArg State.assembler (rearmExpiry_frame s) :)
@[simp] theorem rearmExpiry_map (s : State) : (rearmExpiry s).map = s.map :=
  (congrArg State.map (rearmExpiry_frame s) :)
@[simp] theorem rearmExpiry_production (s : State) : (rearmExpiry s).production = s.production :=
  (congrArg State.production (rearmExpiry_frame s) :)
@[simp] theorem rearmExpiry_recipes (s : State) : (rearmExpiry s).recipes = s.recipes :=
  (congrArg State.recipes (rearmExpiry_frame s) :)
@[simp] theorem rearmExpiry_planner (s : State) : (rearmExpiry s).planner = s.planner :=
  (congrArg State.planner (rearmExpiry_frame s) :)
@[simp] theorem rearmExpiry_dispatcher (s : State) : (rearmExpiry s).dispatcher = s.dispatcher :=
  (congrArg State.dispatcher (rearmExpiry_frame s) :)
@[simp] theorem rearmExpiry_grader (s : State) : (rearmExpiry s).grader = s.grader :=
  (congrArg State.grader (rearmExpiry_frame s) :)
@[simp] theorem rearmExpiry_accounts (s : State) : (rearmExpiry s).accounts = s.accounts :=
  (congrArg State.accounts (rearmExpiry_frame s) :)
@[simp] theorem rearmExpiry_pending (s : State) : (rearmExpiry s).pending = s.pending :=
  (congrArg State.pending (rearmExpiry_frame s) :)

@[simp] theorem rearmExpiry_p (s : State) : (rearmExpiry s).travel.p = s.travel.p := by
  unfold rearmExpiry
  split
  · simp
  · rfl

@[simp] theorem rearmExpiry_deadline (s : State) : (rearmExpiry s).travel.deadline = s.travel.deadline := by
  unfold rearmExpiry
  split
  · simp
  · rfl

@[simp] theorem rearmExpiry_deadlineRaised (s : State) :
    (rearmExpiry s).travel.deadlineRaised = s.travel.deadlineRaised := by
  unfold rearmExpiry
  split
  · simp
  · rfl

/-! ## Cuts -/

/-- A cut appended takes the next seq, QUEUED, behind the others (R136). -/
theorem appendCut_dispatcher (target : Nat) (kind : PieceKind) (pattern : Option (Fin 8)) (row : Option Nat) (s : State) :
    (appendCut target kind pattern row s).dispatcher =
      { s.dispatcher with
        cuts := s.dispatcher.cuts ++ [⟨s.dispatcher.nextSeq, target, kind, pattern, row, .queued⟩]
        nextSeq := wrapSucc s.dispatcher.nextSeq } := by
  unfold appendCut
  simp only
  split <;> simp

theorem appendCut_frame (target : Nat) (kind : PieceKind) (pattern : Option (Fin 8)) (row : Option Nat) (s : State) :
    { appendCut target kind pattern row s with dispatcher := s.dispatcher, travel := s.travel } = s := by
  unfold appendCut
  simp only
  split
  · exact (congrArg (fun t : State => { t with dispatcher := s.dispatcher, travel := s.travel }) (rearmExpiry_frame _) :)
  · rfl

@[simp] theorem appendCut_mode (target : Nat) (kind : PieceKind) (pattern : Option (Fin 8)) (row : Option Nat)
    (s : State) : (appendCut target kind pattern row s).mode = s.mode :=
  (congrArg State.mode (appendCut_frame target kind pattern row s) :)
@[simp] theorem appendCut_switch (target : Nat) (kind : PieceKind) (pattern : Option (Fin 8)) (row : Option Nat)
    (s : State) : (appendCut target kind pattern row s).switch = s.switch :=
  (congrArg State.switch (appendCut_frame target kind pattern row s) :)
@[simp] theorem appendCut_inReset (target : Nat) (kind : PieceKind) (pattern : Option (Fin 8)) (row : Option Nat)
    (s : State) : (appendCut target kind pattern row s).inReset = s.inReset :=
  (congrArg State.inReset (appendCut_frame target kind pattern row s) :)
@[simp] theorem appendCut_conf (target : Nat) (kind : PieceKind) (pattern : Option (Fin 8)) (row : Option Nat)
    (s : State) : (appendCut target kind pattern row s).conf = s.conf :=
  (congrArg State.conf (appendCut_frame target kind pattern row s) :)
@[simp] theorem appendCut_links (target : Nat) (kind : PieceKind) (pattern : Option (Fin 8)) (row : Option Nat)
    (s : State) : (appendCut target kind pattern row s).links = s.links :=
  (congrArg State.links (appendCut_frame target kind pattern row s) :)
@[simp] theorem appendCut_intake (target : Nat) (kind : PieceKind) (pattern : Option (Fin 8)) (row : Option Nat)
    (s : State) : (appendCut target kind pattern row s).intake = s.intake :=
  (congrArg State.intake (appendCut_frame target kind pattern row s) :)
@[simp] theorem appendCut_refs (target : Nat) (kind : PieceKind) (pattern : Option (Fin 8)) (row : Option Nat)
    (s : State) : (appendCut target kind pattern row s).refs = s.refs :=
  (congrArg State.refs (appendCut_frame target kind pattern row s) :)
@[simp] theorem appendCut_assembler (target : Nat) (kind : PieceKind) (pattern : Option (Fin 8)) (row : Option Nat)
    (s : State) : (appendCut target kind pattern row s).assembler = s.assembler :=
  (congrArg State.assembler (appendCut_frame target kind pattern row s) :)
@[simp] theorem appendCut_map (target : Nat) (kind : PieceKind) (pattern : Option (Fin 8)) (row : Option Nat)
    (s : State) : (appendCut target kind pattern row s).map = s.map :=
  (congrArg State.map (appendCut_frame target kind pattern row s) :)
@[simp] theorem appendCut_production (target : Nat) (kind : PieceKind) (pattern : Option (Fin 8)) (row : Option Nat)
    (s : State) : (appendCut target kind pattern row s).production = s.production :=
  (congrArg State.production (appendCut_frame target kind pattern row s) :)
@[simp] theorem appendCut_recipes (target : Nat) (kind : PieceKind) (pattern : Option (Fin 8)) (row : Option Nat)
    (s : State) : (appendCut target kind pattern row s).recipes = s.recipes :=
  (congrArg State.recipes (appendCut_frame target kind pattern row s) :)
@[simp] theorem appendCut_planner (target : Nat) (kind : PieceKind) (pattern : Option (Fin 8)) (row : Option Nat)
    (s : State) : (appendCut target kind pattern row s).planner = s.planner :=
  (congrArg State.planner (appendCut_frame target kind pattern row s) :)
@[simp] theorem appendCut_grader (target : Nat) (kind : PieceKind) (pattern : Option (Fin 8)) (row : Option Nat)
    (s : State) : (appendCut target kind pattern row s).grader = s.grader :=
  (congrArg State.grader (appendCut_frame target kind pattern row s) :)
@[simp] theorem appendCut_accounts (target : Nat) (kind : PieceKind) (pattern : Option (Fin 8)) (row : Option Nat)
    (s : State) : (appendCut target kind pattern row s).accounts = s.accounts :=
  (congrArg State.accounts (appendCut_frame target kind pattern row s) :)
@[simp] theorem appendCut_pending (target : Nat) (kind : PieceKind) (pattern : Option (Fin 8)) (row : Option Nat)
    (s : State) : (appendCut target kind pattern row s).pending = s.pending :=
  (congrArg State.pending (appendCut_frame target kind pattern row s) :)

@[simp] theorem appendCut_p (target : Nat) (kind : PieceKind) (pattern : Option (Fin 8)) (row : Option Nat) (s : State) :
    (appendCut target kind pattern row s).travel.p = s.travel.p := by
  unfold appendCut
  simp only
  split <;> simp

/-- Folding a row writes the planner's rows, the order list and the merged-piece record alone (R145). -/
theorem foldRow_frame (id : Nat) (s : State) :
    { foldRow id s with planner := s.planner, production := s.production, dispatcher := s.dispatcher } = s := by
  unfold foldRow
  split
  · rename_i row _
    have := (congrArg
      (fun t : State => { t with planner := s.planner, production := s.production, dispatcher := s.dispatcher })
      (releasePlates_frame row.order row.orderPlates s) :)
    exact this
  · rfl

theorem foldCutRow_frame (c : Cut) (s : State) :
    { foldCutRow c s with planner := s.planner, production := s.production, dispatcher := s.dispatcher } = s := by
  unfold foldCutRow
  split
  · exact foldRow_frame _ s
  · rfl

@[simp] theorem foldRow_cuts (id : Nat) (s : State) : (foldRow id s).dispatcher.cuts = s.dispatcher.cuts := by
  unfold foldRow releasePlates
  split
  · split
    · split <;> rfl
    · rfl
  · rfl

@[simp] theorem foldCutRow_cuts (c : Cut) (s : State) : (foldCutRow c s).dispatcher.cuts = s.dispatcher.cuts := by
  unfold foldCutRow
  split <;> simp

/-- Losing the head cut writes the cut queue, the planner's rows, the order list and the compare alone (R144). -/
theorem loseHead_frame (c : Cut) (rest : List Cut) (s : State) :
    { loseHead c rest s with
      planner := s.planner, production := s.production, dispatcher := s.dispatcher, travel := s.travel } = s := by
  unfold loseHead
  simp only
  exact ((congrArg
      (fun t : State =>
        { t with planner := s.planner, production := s.production, dispatcher := s.dispatcher, travel := s.travel })
      (rearmExpiry_frame _) :).trans
    (congrArg
      (fun t : State =>
        { t with planner := s.planner, production := s.production, dispatcher := s.dispatcher, travel := s.travel })
      (foldCutRow_frame c _) :))

@[simp] theorem loseHead_cuts (c : Cut) (rest : List Cut) (s : State) : (loseHead c rest s).dispatcher.cuts = rest := by
  simp [loseHead]

/-- A reported cut leaves the queue, and a piece up to its actual position joins the close queue (R143, R147). -/
theorem executeHead_spec (c : Cut) (rest : List Cut) (a : Nat) (s : State) :
    (executeHead c rest a s).dispatcher.cuts = rest ∧ (executeHead c rest a s).dispatcher.aLast = some a ∧
      (executeHead c rest a s).dispatcher.merged = none ∧
      (executeHead c rest a s).grader.queue =
        s.grader.queue ++ [pieceOf c (formPiece s.dispatcher c a) a] := by
  refine ⟨by simp [executeHead], by simp [executeHead], by simp [executeHead], ?_⟩
  simp only [executeHead, rearmExpiry_grader]
  split
  · rfl
  · rw [(congrArg State.grader (foldCutRow_frame c s) :)]

/-! ## What follows the head, and what a fold does -/

/-- The expiry compare follows the head of the cut queue (R139). -/
theorem rearmExpiry_follows (s : State) : ExpiryFollowsHead s.travel.expiryRaised (rearmExpiry s) := by
  unfold ExpiryFollowsHead
  rw [rearmExpiry_dispatcher, rearmExpiry_p, rearmExpiry_conf]
  constructor
  · intro h
    simp [rearmExpiry, h, disarmExpiry]
  · intro c rest h
    simp only [rearmExpiry, h, armExpiry, Travel.raiseExpiry, Conf.expiryThreshold]
    constructor
    · intro hp
      simp [hp]
    · intro hp
      simp [Nat.not_lt.2 hp]

/-- An order's update reaches the order of its id and no other. -/
theorem updateOrder_order {p : Production} {id : Nat} {o : Order} {f : Order → Order} (hf : ∀ x, (f x).id = x.id)
    (h : p.order id = some o) :
    (p.updateOrder id f).order id = some (f o) ∧
      ∀ other, other ≠ id → (p.updateOrder id f).order other = p.order other := by
  rcases updateFirst_eq (fun o : Order => o.id == id) f p.orders with ⟨hnone, -⟩ | ⟨before, x, after, hxs, hb, hx, he⟩
  · have := List.find?_some h
    simp [hnone o (List.mem_of_find?_eq_some h)] at this
  · have hid : x.id = id := by simpa using hx
    have hnone : before.find? (fun o => o.id == id) = none := by simpa using hb
    simp only [Production.updateOrder, Production.order] at h ⊢
    rw [he]
    rw [hxs] at h ⊢
    constructor
    · rw [List.find?_append, hnone] at h ⊢
      simp only [Option.none_or, List.find?_cons, hid, beq_self_eq_true, Option.some.injEq] at h
      subst h
      simp [hf, hid]
    · intro other hne
      have e : (id == other) = false := by simpa using fun h => hne h.symm
      simp [List.find?_append, hf, hid, e]

/-- A row of order plates that is given up gives them back, leaves the row table, and touches no other order (R145). -/
theorem foldCutRow_folded (c : Cut) (s : State) : RowFolded c s (foldCutRow c s) := by
  constructor
  · intro id row hid hrow
    have hrow' : s.planner.row id = some row := hrow
    simp only [foldCutRow, hid, foldRow, hrow', removeRowOf]
    refine ⟨?_, ?_, ?_, ?_⟩
    · rw [(congrArg State.planner (releasePlates_frame row.order row.orderPlates s) :)]
    · unfold releasePlates
      split
      · split <;> rfl
      · rfl
    · intro oid o ho hoo
      simp only [releasePlates, ho]
      split
      · rename_i h0
        simp [h0, hoo]
      · exact updateOrder_order (fun _ => rfl) hoo
    · intro ho
      simp [releasePlates, ho]
  · intro h
    unfold foldCutRow
    split
    · rename_i id hid
      have : s.planner.row id = none := h id hid
      simp [foldRow, this]
    · exact ⟨rfl, rfl⟩

/-- A cut appended to an empty queue is the head that the compare follows (R139). -/
theorem appendCut_follows (target : Nat) (kind : PieceKind) (pattern : Option (Fin 8)) (row : Option Nat) {s : State}
    (h : s.dispatcher.cuts = []) :
    ExpiryFollowsHead s.travel.expiryRaised (appendCut target kind pattern row s) := by
  simp only [appendCut, h, List.isEmpty_nil, if_true]
  exact rearmExpiry_follows _

/-- A cut appended behind a head leaves the compare alone (R139). -/
theorem appendCut_behind (target : Nat) (kind : PieceKind) (pattern : Option (Fin 8)) (row : Option Nat) {s : State}
    (h : s.dispatcher.cuts ≠ []) : (appendCut target kind pattern row s).travel = s.travel := by
  have : s.dispatcher.cuts.isEmpty = false := by simpa using h
  simp [appendCut, this]

/-- Whether the compare follows the head depends on the queue, the compare, P and the configuration alone. -/
theorem ExpiryFollowsHead.congr {raised : List Nat} {s t : State} (h : ExpiryFollowsHead raised s)
    (hcuts : t.dispatcher.cuts = s.dispatcher.cuts) (hexpiry : t.travel.expiry = s.travel.expiry)
    (hraised : t.travel.expiryRaised = s.travel.expiryRaised) (hconf : t.conf = s.conf)
    (hp : t.travel.p = s.travel.p) : ExpiryFollowsHead raised t := by
  unfold ExpiryFollowsHead at *
  rw [hcuts, hexpiry, hraised, hconf, hp]
  exact h

/-- What a cut appended does to the travel unit depends on the dispatcher, the configuration and the travel unit alone. -/
theorem appendCut_travel_congr (target : Nat) (kind : PieceKind) (pattern : Option (Fin 8)) (row : Option Nat) {s t : State}
    (hd : t.dispatcher = s.dispatcher) (hc : t.conf = s.conf) (ht : t.travel = s.travel) :
    (appendCut target kind pattern row t).travel = (appendCut target kind pattern row s).travel := by
  unfold appendCut rearmExpiry
  simp only [hd]
  split
  · split <;> simp only [armExpiry, disarmExpiry, hc, ht]
  · exact ht

/-- A cut appended writes of the travel unit the expiry compare alone. -/
theorem appendCut_travel (target : Nat) (kind : PieceKind) (pattern : Option (Fin 8)) (row : Option Nat) (s : State) :
    { (appendCut target kind pattern row s).travel with
      expiry := s.travel.expiry, expiryRaised := s.travel.expiryRaised } = s.travel := by
  unfold appendCut
  simp only
  split
  · unfold rearmExpiry
    split
    · simp only [armExpiry, Travel.raiseExpiry]
      split <;> rfl
    · rfl
  · rfl

/-- A head cut given up leaves the queue, makes the merged-piece record where it is absent, and counts the row it folds in
it; the compare follows the next head (R144, R145). -/
theorem loseHead_spec (c : Cut) (rest : List Cut) (s : State) :
    let d := s.dispatcher
    let record := d.merged.getD ⟨d.aLast, 0⟩
    let folds := ∃ id row, c.row = some id ∧ s.planner.rows.find? (fun r => r.id == id) = some row
    let t := loseHead c rest s
    (folds → t.dispatcher = { d with cuts := rest, merged := some ⟨record.start, bump record.count⟩ }) ∧
      (¬folds → t.dispatcher = { d with cuts := rest, merged := some record }) ∧
      RowFolded c s t ∧ ExpiryFollowsHead s.travel.expiryRaised t := by
  intro d record folds t
  let s₁ : State := { s with dispatcher := { d with cuts := rest, merged := some record } }
  have ht : t = rearmExpiry (foldCutRow c s₁) := rfl
  have hfold := foldCutRow_folded c s₁
  refine ⟨?_, ?_, ⟨?_, ?_⟩, ?_⟩
  · rintro ⟨id, row, hid, hrow⟩
    have hrow' : s₁.planner.row id = some row := hrow
    rw [ht, rearmExpiry_dispatcher]
    simp only [foldCutRow, hid, foldRow, hrow', removeRowOf]
    rw [(congrArg State.dispatcher (releasePlates_frame row.order row.orderPlates s₁) :)]
    rfl
  · intro hnone
    rw [ht, rearmExpiry_dispatcher]
    unfold foldCutRow
    split
    · rename_i id hid
      have : s₁.planner.row id = none := by
        cases h : s₁.planner.row id with
        | none => rfl
        | some row => exact absurd ⟨id, row, hid, h⟩ hnone
      simp only [foldRow, this]
      rfl
    · rfl
  · intro id row hid hrow
    rw [ht, rearmExpiry_planner, rearmExpiry_production]
    exact hfold.1 id row hid hrow
  · intro hnone
    rw [ht, rearmExpiry_planner, rearmExpiry_production]
    exact hfold.2 hnone
  · have htravel : (foldCutRow c s₁).travel = s.travel := (congrArg State.travel (foldCutRow_frame c s₁) :)
    have := rearmExpiry_follows (foldCutRow c s₁)
    rw [htravel] at this
    exact this

/-! ## The routing list -/

/-- An entry appended writes the routing list, its losses and the ROUTELOST flag alone (R148). -/
theorem appendRoute_frame (e : RouteEntry) (s : State) :
    { appendRoute e s with dispatcher := s.dispatcher, accounts := s.accounts, links := s.links } = s := by
  unfold appendRoute
  simp only
  split <;> rfl

@[simp] theorem appendRoute_mode (e : RouteEntry) (s : State) : (appendRoute e s).mode = s.mode :=
  (congrArg State.mode (appendRoute_frame e s) :)
@[simp] theorem appendRoute_switch (e : RouteEntry) (s : State) : (appendRoute e s).switch = s.switch :=
  (congrArg State.switch (appendRoute_frame e s) :)
@[simp] theorem appendRoute_inReset (e : RouteEntry) (s : State) : (appendRoute e s).inReset = s.inReset :=
  (congrArg State.inReset (appendRoute_frame e s) :)
@[simp] theorem appendRoute_conf (e : RouteEntry) (s : State) : (appendRoute e s).conf = s.conf :=
  (congrArg State.conf (appendRoute_frame e s) :)
@[simp] theorem appendRoute_travel (e : RouteEntry) (s : State) : (appendRoute e s).travel = s.travel :=
  (congrArg State.travel (appendRoute_frame e s) :)
@[simp] theorem appendRoute_intake (e : RouteEntry) (s : State) : (appendRoute e s).intake = s.intake :=
  (congrArg State.intake (appendRoute_frame e s) :)
@[simp] theorem appendRoute_refs (e : RouteEntry) (s : State) : (appendRoute e s).refs = s.refs :=
  (congrArg State.refs (appendRoute_frame e s) :)
@[simp] theorem appendRoute_assembler (e : RouteEntry) (s : State) : (appendRoute e s).assembler = s.assembler :=
  (congrArg State.assembler (appendRoute_frame e s) :)
@[simp] theorem appendRoute_map (e : RouteEntry) (s : State) : (appendRoute e s).map = s.map :=
  (congrArg State.map (appendRoute_frame e s) :)
@[simp] theorem appendRoute_production (e : RouteEntry) (s : State) : (appendRoute e s).production = s.production :=
  (congrArg State.production (appendRoute_frame e s) :)
@[simp] theorem appendRoute_recipes (e : RouteEntry) (s : State) : (appendRoute e s).recipes = s.recipes :=
  (congrArg State.recipes (appendRoute_frame e s) :)
@[simp] theorem appendRoute_planner (e : RouteEntry) (s : State) : (appendRoute e s).planner = s.planner :=
  (congrArg State.planner (appendRoute_frame e s) :)
@[simp] theorem appendRoute_grader (e : RouteEntry) (s : State) : (appendRoute e s).grader = s.grader :=
  (congrArg State.grader (appendRoute_frame e s) :)
@[simp] theorem appendRoute_pending (e : RouteEntry) (s : State) : (appendRoute e s).pending = s.pending :=
  (congrArg State.pending (appendRoute_frame e s) :)

/-- The entry is the newest of at most 32 (R148). -/
theorem appendRoute_routing (e : RouteEntry) (s : State) :
    (appendRoute e s).dispatcher.routing =
      (if s.dispatcher.routing.length < 32 then s.dispatcher.routing else s.dispatcher.routing.drop 1) ++ [e] := by
  by_cases h : s.dispatcher.routing.length < 32 <;> simp [appendRoute, Config.routingCapacity, h]

end Sys2Proof.Machine
end

