-- ==== Sys2Proof/Laws/Flags.lean ====
section
/-!
SUPPORT. When the attention outputs and the level conditions hold, and which order is the active one.
-/

namespace Sys2Proof.Machine

/-- An attention output is asserted while a flag of its link is set with its mask bit set (R32). -/
theorem attention_iff (s : State) (l : Link) :
    s.attention l = true ↔ s.inReset = false ∧ (s.link l).flags &&& (s.link l).mask ≠ 0 := by
  simp [State.attention]

theorem ready_iff (s : State) : s.ready = true ↔ ∃ c ∈ s.dispatcher.cuts, c.state = .queued := by
  simp [State.ready, List.any_eq_true]

theorem routeWaiting_iff (s : State) : s.routeWaiting = true ↔ s.dispatcher.routing ≠ [] := by
  simp [State.routeWaiting]

theorem wants_iff (o : Order) : o.wants = true ↔ o.state = .opened ∧ 0 < o.wanted - o.delivered - o.inFlight := by
  rw [Order.wants, Bool.and_eq_true, beq_iff_eq, decide_eq_true_iff, Order.need]

/-- The active order is the first OPEN order with need (R95). -/
theorem activeOrder_eq_some_iff (orders : List Order) (o : Order) :
    activeOrder orders = some o ↔
      o.wants = true ∧ ∃ before after, orders = before ++ o :: after ∧ ∀ x ∈ before, ¬x.wants = true := by
  simp [activeOrder, List.find?_eq_some_iff_append]

theorem activeOrder_eq_none_iff (orders : List Order) : activeOrder orders = none ↔ ∀ o ∈ orders, ¬o.wants = true := by
  simp [activeOrder]

theorem starved_iff (s : State) : s.starved = true ↔ s.mode = .run ∧ activeOrder s.production.orders = none := by
  rw [State.starved, Bool.and_eq_true, beq_iff_eq, Option.isNone_iff_eq_none]

end Sys2Proof.Machine
end

