-- ==== Sys2Proof/Laws/Gantry.lean ====
section
/-!
SUPPORT. What DET and BKG do with their records: the sound ones join the tail as far as the queue has room, the rest of
them are dropped, and the counters take every record.
-/

namespace Sys2Proof.Machine

/-! ## The detection record -/

/-- The detection record of section 2.8, field by field. -/
theorem rawDetection_eq (w0 w1 w2 w3 w4 : Word) :
    rawDetection w0 w1 w2 w3 w4 =
      { row := w0.toNat * 65536 + w1.toNat
        xStart := w2.toNat % 8192
        channel := channelOf (decide (w2.toNat / 8192 % 2 = 1))
        width := w3.toNat % 256
        lane := w3.toNat / 256 % 16
        kind := FlawKind.ofCode (w3.toNat / 4096 % 8)
        peak := w4.toNat % 4096
        band := if w4.toNat / 4096 = 0 then 16 else w4.toNat / 4096 } := by
  have hbit : w2.getLsbD 13 = decide (w2.toNat / 8192 % 2 = 1) := by
    rw [BitVec.getLsbD, Nat.testBit_eq_decide_div_mod_eq]
  have hband : (w4.extractLsb' 12 4).toNat = w4.toNat / 4096 := by
    have := w4.isLt
    rw [BitVec.extractLsb'_toNat, Nat.shiftRight_eq_div_pow]
    omega
  have hzero : (w4.extractLsb' 12 4 = 0) = (w4.toNat / 4096 = 0) := by
    rw [← BitVec.toNat_inj, hband]; rfl
  unfold rawDetection
  simp only [hbit, hzero, hband, BitVec.extractLsb'_toNat, Nat.shiftRight_eq_div_pow, Nat.reducePow, Nat.div_one]

/-! ## Counters over several records -/

/-- A saturating count after `n` more. -/
def bumped (n k : Nat) : Nat := max k (min 65535 (k + n))

@[simp] theorem bumped_zero (k : Nat) : bumped 0 k = k := by unfold bumped; omega

theorem bumped_bump (n k : Nat) : bumped n (bump k) = bumped (n + 1) k := by
  unfold bumped bump Config.countMax
  split <;> omega

/-! ## The records of a transfer -/

/-- The detections of the sound records, in order, with whether the row was clamped (R40, R41). -/
def soundDetections (lanes : Vector Across 12) (p : Nat) (records : List RawDetection) : List (Detection × Bool) :=
  records.filterMap fun r => (wellFormedLane lanes r).map fun lane => (r.entry p lane, decide (p < r.row))

/-- The entries of the sound samples, in order (R43). -/
def soundSamples (samples : List RawSample) : List Entry :=
  samples.filterMap fun r => (laneOf r.lane).map fun lane => .background lane r.channel r.level

/-- The part after a transfer of `n` records of which `entered` entered, and some were lost for room or not. -/
def entriesTaken (n : Nat) (entered : List Entry) (lostForRoom : Bool) (s : State) : State :=
  { s with
    intake :=
      { s.intake with
        queue := s.intake.queue ++ entered
        received := (s.intake.received + n) % 65536
        dropped := bumped (n - entered.length) s.intake.dropped
        highWater :=
          if entered = [] then s.intake.highWater
          else max s.intake.highWater (s.intake.queue.length + entered.length)
        overflow := s.intake.overflow || lostForRoom }
    accounts :=
      { s.accounts with
        counts :=
          { s.accounts.counts with intakeDrops := bumped (n - entered.length) s.accounts.counts.intakeDrops } }
    links :=
      if lostForRoom then { s.links with gantry := { s.links.gantry with flags := s.links.gantry.flags ||| 1 } }
      else s.links }

/-! ## One record, and those after it -/

theorem entriesTaken_nil {s : State} (h : s.intake.received ≤ 65535) : entriesTaken 0 [] false s = s := by
  simp [entriesTaken, Nat.mod_eq_of_lt (Nat.lt_succ_of_le h)]

theorem entriesTaken_discard {s : State} (h : s.intake.received ≤ 65535) {n : Nat} {es : List Entry} (lost : Bool)
    (hn : es.length ≤ n) :
    entriesTaken n es lost (countDrop { s with intake := s.intake.receive }) = entriesTaken (n + 1) es lost s := by
  have e : n + 1 - es.length = n - es.length + 1 := by omega
  simp [entriesTaken, countDrop, State.count, Intake.receive, wrapSucc_add h n, bumped_bump, e]

theorem entriesTaken_drop {s : State} (h : s.intake.received ≤ 65535) (n : Nat) (lost : Bool) :
    entriesTaken n [] lost (dropForFull { s with intake := s.intake.receive }) = entriesTaken (n + 1) [] true s := by
  cases lost <;>
    simp [entriesTaken, dropForFull, raise, State.setLink, State.link, Links.set, Links.get, Event.link, countDrop,
      State.count, Intake.receive, wrapSucc_add h n, bumped_bump, flagBit, Event.flag, BitVec.or_assoc]

theorem entriesTaken_push {s : State} (h : s.intake.received ≤ 65535) (n : Nat) (e : Entry) (es : List Entry)
    (lost : Bool) :
    entriesTaken n es lost { s with intake := s.intake.receive.push e } = entriesTaken (n + 1) (e :: es) lost s := by
  simp [entriesTaken, Intake.push, Intake.receive, wrapSucc_add h n]
  split
  · rename_i hes
    simp [hes]
  · omega

/-! ## BKG -/

theorem takeSample_foldl (samples : List RawSample) :
    ∀ t : Taking, t.s.intake.received ≤ 65535 →
      let room := 64 - t.s.intake.queue.length
      let entered := (soundSamples samples).take room
      samples.foldl takeSample t =
        ⟨entriesTaken samples.length entered (!((soundSamples samples).drop room).isEmpty) t.s,
          t.entered + entered.length, t.clamped, t.lost || decide (entered.length < samples.length)⟩ := by
  induction samples with
  | nil =>
    rintro ⟨s, n, c, l⟩ h
    simp [soundSamples, entriesTaken_nil h]
  | cons r rs ih =>
    rintro ⟨s, n, c, l⟩ h
    simp only at h
    have hlen : (soundSamples rs).length ≤ rs.length := List.length_filterMap_le _ _
    have hr := wrapSucc_le s.intake.received
    simp only [List.foldl_cons]
    cases hlane : laneOf r.lane with
    | none =>
      have hs : soundSamples (r :: rs) = soundSamples rs := by simp [soundSamples, hlane]
      rw [show takeSample ⟨s, n, c, l⟩ r = Taking.discard ⟨s, n, c, l⟩ by simp [takeSample, hlane], ih _ hr, hs]
      simp only [Taking.discard]
      rw [entriesTaken_discard h _ (by simp; omega)]
      simp [countDrop, State.count, Intake.receive]
      omega
    | some lane =>
      have hs : soundSamples (r :: rs) = .background lane r.channel r.level :: soundSamples rs := by
        simp [soundSamples, hlane]
      by_cases hf : 64 ≤ s.intake.queue.length
      · have h0 : 64 - s.intake.queue.length = 0 := by omega
        rw [show takeSample ⟨s, n, c, l⟩ r = Taking.drop ⟨s, n, c, l⟩ by
          simp [takeSample, hlane, Intake.full, Config.intakeCapacity, hf], ih _ hr, hs]
        simp only [Taking.drop]
        have hq : (dropForFull { s with intake := s.intake.receive }).intake.queue = s.intake.queue := rfl
        simp only [hq, h0, List.take_zero, entriesTaken_drop h]
        simp
      · obtain ⟨k, hk⟩ : ∃ k, 64 - s.intake.queue.length = k + 1 := ⟨63 - s.intake.queue.length, by omega⟩
        rw [show takeSample ⟨s, n, c, l⟩ r = Taking.enter (.background lane r.channel r.level) false ⟨s, n, c, l⟩ by
          simp [takeSample, hlane, Intake.full, Config.intakeCapacity, hf], ih _ hr, hs]
        simp only [Taking.enter]
        have hq : 64 - (s.intake.receive.push (.background lane r.channel r.level)).queue.length = k := by
          simp [Intake.push, Intake.receive]; omega
        simp only [hq, hk, entriesTaken_push h]
        simp
        omega

/-! ## DET -/

/-- The spans of the records dropped for room, each over its rows (R42). -/
def droppedSpans (dropped : List (Detection × Bool)) (s : State) : State :=
  dropped.foldl (fun t x => addSpan x.1.row x.1.lastRow .intake t) s

/-- Adding a span leaves the counters of a transfer alone, and they leave it alone. -/
theorem entriesTaken_addSpan (n : Nat) (entered : List Entry) (lost : Bool) (first last : Nat) (cause : SpanCause)
    (s : State) :
    entriesTaken n entered lost (addSpan first last cause s) = addSpan first last cause (entriesTaken n entered lost s) := by
  cases lost <;> simp only [addSpan, entriesTaken] <;> split <;> split <;> rfl

theorem takeDetection_foldl (records : List RawDetection) :
    ∀ t : Taking, t.s.intake.received ≤ 65535 →
      let sound := soundDetections t.s.conf.lanes t.s.travel.p records
      let room := 64 - t.s.intake.queue.length
      let entered := sound.take room
      records.foldl takeDetection t =
        ⟨droppedSpans (sound.drop room)
            (entriesTaken records.length (entered.map fun x => .detection x.1) (!(sound.drop room).isEmpty) t.s),
          t.entered + entered.length, t.clamped || entered.any Prod.snd,
          t.lost || decide (entered.length < records.length)⟩ := by
  induction records with
  | nil =>
    rintro ⟨s, n, c, l⟩ h
    simp [soundDetections, droppedSpans, entriesTaken_nil h]
  | cons r rs ih =>
    rintro ⟨s, n, c, l⟩ h
    simp only at h
    have hlen : (soundDetections s.conf.lanes s.travel.p rs).length ≤ rs.length := List.length_filterMap_le _ _
    have hr := wrapSucc_le s.intake.received
    simp only [List.foldl_cons]
    cases hlane : wellFormedLane s.conf.lanes r with
    | none =>
      have hs : soundDetections s.conf.lanes s.travel.p (r :: rs) = soundDetections s.conf.lanes s.travel.p rs := by
        simp [soundDetections, hlane]
      rw [show takeDetection ⟨s, n, c, l⟩ r = Taking.discard ⟨s, n, c, l⟩ by simp [takeDetection, hlane], ih _ hr, hs]
      simp only [Taking.discard]
      have hq : (countDrop { s with intake := s.intake.receive }).intake.queue = s.intake.queue := rfl
      have hc : (countDrop { s with intake := s.intake.receive }).conf = s.conf := rfl
      have ht : (countDrop { s with intake := s.intake.receive }).travel = s.travel := rfl
      simp only [hq, hc, ht]
      rw [entriesTaken_discard h _ (by simp; omega)]
      simp
      omega
    | some lane =>
      have hs : soundDetections s.conf.lanes s.travel.p (r :: rs) =
          (r.entry s.travel.p lane, decide (s.travel.p < r.row)) :: soundDetections s.conf.lanes s.travel.p rs := by
        simp [soundDetections, hlane]
      by_cases hf : 64 ≤ s.intake.queue.length
      · have h0 : 64 - s.intake.queue.length = 0 := by omega
        rw [show takeDetection ⟨s, n, c, l⟩ r =
            ⟨addSpan (r.entry s.travel.p lane).row (r.entry s.travel.p lane).lastRow .intake
                (dropForFull { s with intake := s.intake.receive }), n, c, true⟩ by
          simp [takeDetection, hlane, Intake.full, Config.intakeCapacity, hf, Taking.drop], ih _ (by rw [addSpan_intake]; exact hr), hs]
        have hq : (dropForFull { s with intake := s.intake.receive }).intake.queue = s.intake.queue := rfl
        have hc : (dropForFull { s with intake := s.intake.receive }).conf = s.conf := rfl
        have ht : (dropForFull { s with intake := s.intake.receive }).travel = s.travel := rfl
        simp only [addSpan_conf, addSpan_travel, addSpan_intake, hq, hc, ht, h0, List.take_zero, List.map_nil,
          entriesTaken_addSpan, entriesTaken_drop h]
        simp [droppedSpans]
      · obtain ⟨k, hk⟩ : ∃ k, 64 - s.intake.queue.length = k + 1 := ⟨63 - s.intake.queue.length, by omega⟩
        rw [show takeDetection ⟨s, n, c, l⟩ r =
            Taking.enter (.detection (r.entry s.travel.p lane)) (decide (s.travel.p < r.row)) ⟨s, n, c, l⟩ by
          simp [takeDetection, hlane, Intake.full, Config.intakeCapacity, hf], ih _ hr, hs]
        simp only [Taking.enter]
        have hq : 64 - (s.intake.receive.push (.detection (r.entry s.travel.p lane))).queue.length = k := by
          simp [Intake.push, Intake.receive]; omega
        simp only [hq, hk, entriesTaken_push h, List.take_succ_cons, List.drop_succ_cons, List.map_cons]
        simp [Bool.or_assoc]
        omega

end Sys2Proof.Machine
end

