-- ==== Sys2Proof/Laws/Planner.lean ====
section
/-!
SUPPORT. The planner's operations: what the opening, the commit, the promotion and the mode entry may write, what row a
course decides, and what the rejecters of a candidate cover.
-/

namespace Sys2Proof.Machine

/-! ## The promotion -/

/-- The promotion test writes the recipes and the RECIPE flag alone (R109). -/
theorem promotionTest_frame (s : State) : { promotionTest s with recipes := s.recipes, links := s.links } = s := by
  unfold promotionTest
  split
  · split <;> rfl
  · rfl

@[simp] theorem promotionTest_mode (s : State) : (promotionTest s).mode = s.mode :=
  (congrArg State.mode (promotionTest_frame s) :)
@[simp] theorem promotionTest_switch (s : State) : (promotionTest s).switch = s.switch :=
  (congrArg State.switch (promotionTest_frame s) :)
@[simp] theorem promotionTest_inReset (s : State) : (promotionTest s).inReset = s.inReset :=
  (congrArg State.inReset (promotionTest_frame s) :)
@[simp] theorem promotionTest_conf (s : State) : (promotionTest s).conf = s.conf :=
  (congrArg State.conf (promotionTest_frame s) :)
@[simp] theorem promotionTest_travel (s : State) : (promotionTest s).travel = s.travel :=
  (congrArg State.travel (promotionTest_frame s) :)
@[simp] theorem promotionTest_intake (s : State) : (promotionTest s).intake = s.intake :=
  (congrArg State.intake (promotionTest_frame s) :)
@[simp] theorem promotionTest_refs (s : State) : (promotionTest s).refs = s.refs :=
  (congrArg State.refs (promotionTest_frame s) :)
@[simp] theorem promotionTest_assembler (s : State) : (promotionTest s).assembler = s.assembler :=
  (congrArg State.assembler (promotionTest_frame s) :)
@[simp] theorem promotionTest_map (s : State) : (promotionTest s).map = s.map :=
  (congrArg State.map (promotionTest_frame s) :)
@[simp] theorem promotionTest_production (s : State) : (promotionTest s).production = s.production :=
  (congrArg State.production (promotionTest_frame s) :)
@[simp] theorem promotionTest_planner (s : State) : (promotionTest s).planner = s.planner :=
  (congrArg State.planner (promotionTest_frame s) :)
@[simp] theorem promotionTest_dispatcher (s : State) : (promotionTest s).dispatcher = s.dispatcher :=
  (congrArg State.dispatcher (promotionTest_frame s) :)
@[simp] theorem promotionTest_grader (s : State) : (promotionTest s).grader = s.grader :=
  (congrArg State.grader (promotionTest_frame s) :)
@[simp] theorem promotionTest_accounts (s : State) : (promotionTest s).accounts = s.accounts :=
  (congrArg State.accounts (promotionTest_frame s) :)
@[simp] theorem promotionTest_pending (s : State) : (promotionTest s).pending = s.pending :=
  (congrArg State.pending (promotionTest_frame s) :)

/-! ## The opening -/

/-- A switch that takes effect writes the mode, the switch and the MODE flags alone (R184). -/
theorem takeSwitch_frame (s : State) : { takeSwitch s with mode := s.mode, switch := s.switch, links := s.links } = s := by
  unfold takeSwitch
  split <;> rfl

@[simp] theorem takeSwitch_inReset (s : State) : (takeSwitch s).inReset = s.inReset :=
  (congrArg State.inReset (takeSwitch_frame s) :)
@[simp] theorem takeSwitch_conf (s : State) : (takeSwitch s).conf = s.conf :=
  (congrArg State.conf (takeSwitch_frame s) :)
@[simp] theorem takeSwitch_travel (s : State) : (takeSwitch s).travel = s.travel :=
  (congrArg State.travel (takeSwitch_frame s) :)
@[simp] theorem takeSwitch_intake (s : State) : (takeSwitch s).intake = s.intake :=
  (congrArg State.intake (takeSwitch_frame s) :)
@[simp] theorem takeSwitch_refs (s : State) : (takeSwitch s).refs = s.refs :=
  (congrArg State.refs (takeSwitch_frame s) :)
@[simp] theorem takeSwitch_assembler (s : State) : (takeSwitch s).assembler = s.assembler :=
  (congrArg State.assembler (takeSwitch_frame s) :)
@[simp] theorem takeSwitch_map (s : State) : (takeSwitch s).map = s.map :=
  (congrArg State.map (takeSwitch_frame s) :)
@[simp] theorem takeSwitch_production (s : State) : (takeSwitch s).production = s.production :=
  (congrArg State.production (takeSwitch_frame s) :)
@[simp] theorem takeSwitch_recipes (s : State) : (takeSwitch s).recipes = s.recipes :=
  (congrArg State.recipes (takeSwitch_frame s) :)
@[simp] theorem takeSwitch_planner (s : State) : (takeSwitch s).planner = s.planner :=
  (congrArg State.planner (takeSwitch_frame s) :)
@[simp] theorem takeSwitch_dispatcher (s : State) : (takeSwitch s).dispatcher = s.dispatcher :=
  (congrArg State.dispatcher (takeSwitch_frame s) :)
@[simp] theorem takeSwitch_grader (s : State) : (takeSwitch s).grader = s.grader :=
  (congrArg State.grader (takeSwitch_frame s) :)
@[simp] theorem takeSwitch_accounts (s : State) : (takeSwitch s).accounts = s.accounts :=
  (congrArg State.accounts (takeSwitch_frame s) :)
@[simp] theorem takeSwitch_pending (s : State) : (takeSwitch s).pending = s.pending :=
  (congrArg State.pending (takeSwitch_frame s) :)

theorem takeSwitch_mode (s : State) : (takeSwitch s).mode = s.switch.getD s.mode := by
  unfold takeSwitch
  rcases h : s.switch with _ | m <;> rfl

@[simp] theorem takeSwitch_switch (s : State) : (takeSwitch s).switch = none := by
  unfold takeSwitch
  rcases h : s.switch with _ | m
  · exact h
  · rfl

/-- The opening writes the planner, the raised deadline, the mode, the switch and the MODE flags alone (R120, R184). -/
theorem openDecision_frame (s : State) :
    { openDecision s with
      planner := s.planner, travel := s.travel, mode := s.mode, switch := s.switch, links := s.links } = s := by
  unfold openDecision
  exact (congrArg
    (fun t : State =>
      { t with planner := s.planner, travel := s.travel, mode := s.mode, switch := s.switch, links := s.links })
    (takeSwitch_frame { s with travel := { s.travel with deadlineRaised := none } }) :)

/-- What the opening of a decision does to the links: a switch raises MODE on all of them, and STARVED where the switch makes
its condition rise; without a switch they stay (R121, R184). -/
theorem openDecision_links (s : State) :
    (setRisenLevels s (openDecision s)).links =
      if s.switch = none then s.links
      else
        { s.links with
          gantry := { s.links.gantry with flags := s.links.gantry.flags ||| 128 }
          cutter := { s.links.cutter with flags := s.links.cutter.flags ||| 128 }
          supervisor :=
            { s.links.supervisor with
              flags :=
                s.links.supervisor.flags ||| 128 |||
                  (if s.mode ≠ .run ∧ s.switch.getD s.mode = .run ∧ activeOrder s.production.orders = none then 2
                    else 0) } } := by
  cases hsw : s.switch with
  | none =>
    rw [if_pos rfl, setRisenLevels_of_same] <;>
      simp [openDecision, takeSwitch, hsw, State.ready, State.routeWaiting, State.starved]
  | some m =>
    rw [if_neg (by simp)]
    cases m <;> cases hm : s.mode <;> cases ho : activeOrder s.production.orders <;>
      simp [openDecision, takeSwitch, hsw, setRisenLevels, setIfRisen, State.ready, State.routeWaiting, State.starved,
        raiseMode, raise, State.setLink, State.link, Event.link, Event.flag, flagBit, Links.get,
        Links.set, hm, ho]

/-! ## Rejecters -/

theorem alongMeets_iff {first last start stop : Nat} :
    alongMeets first last start stop = true ↔ first < stop ∧ start ≤ last := by
  simp [alongMeets]

theorem acrossMeets_iff {xMin xMax : Nat} {a : Across} :
    acrossMeets xMin xMax a = true ↔ xMin < a.xr ∧ a.xl ≤ xMax := by
  simp [acrossMeets]

theorem meetsColumns_iff {xMin xMax : Nat} {columns : List Across} :
    meetsColumns xMin xMax columns = true ↔ ∃ a ∈ columns, xMin < a.xr ∧ a.xl ≤ xMax := by
  simp [meetsColumns, acrossMeets]

/-- A mapped flaw at or above the reject class that meets the candidate is among its rejecters (R126). -/
theorem mem_rejecters_of_flaw {s : State} {c : Candidate} {f : FlawRecord} (hf : f ∈ s.map.flaws)
    (hclass : (rejectClass c.grade s.recipes.current.limits.nb).code ≤ f.cls.code)
    (halong : alongMeets f.firstRow f.lastRow c.start c.stop = true)
    (hacross : meetsColumns f.xMin f.xMax c.columns = true) :
    (⟨f.firstRow, f.lastRow, f.forced⟩ : Rejecter) ∈ rejecters s c := by
  unfold rejecters mappedRejecters
  refine List.mem_append_left _ (List.mem_append_left _ (List.mem_map.mpr ⟨f, List.mem_filter.mpr ⟨hf, ?_⟩, rfl⟩))
  simp [FlawClass.atLeast, hclass, halong, hacross]

/-- So is an open flaw by its provisional class and its clipped extent (R78, R126). -/
theorem mem_rejecters_of_open {s : State} {c : Candidate} {x : Slotted} {j : Judged} (hx : x ∈ s.assembler.openFlaws)
    (hj : judge s.conf.netZone s.recipes x.flaw = some j)
    (hclass : (rejectClass c.grade s.recipes.current.limits.nb).code ≤ j.cls.code)
    (halong : alongMeets x.flaw.firstRow x.flaw.lastRow c.start c.stop = true)
    (hacross : meetsColumns j.xMin j.xMax c.columns = true) :
    (⟨x.flaw.firstRow, x.flaw.lastRow, false⟩ : Rejecter) ∈ rejecters s c := by
  unfold rejecters openRejecters
  refine List.mem_append_left _ (List.mem_append_right _ (List.mem_map.mpr ⟨x, List.mem_filter.mpr ⟨hx, ?_⟩, rfl⟩))
  simp [openRejects, hj, FlawClass.atLeast, hclass, halong, hacross]

/-- A SHORT row fits before the first rejecter, and meets none (R130). -/
theorem shortFits_spec {c : ProductCourse} {start f length : Nat} {rs : List Rejecter}
    (h : shortFits c start f rs = some length) :
    c.short = some length ∧ length ≤ f - start ∧
      ∀ r ∈ rs, alongMeets r.first r.last start (start + length) = false := by
  unfold shortFits at h
  split at h
  · rename_i n hshort
    split at h
    · rename_i hfit
      obtain rfl := Option.some.inj h
      refine ⟨hshort, hfit.1, fun r hr => ?_⟩
      have hnone := hfit.2
      simp only [Bool.not_eq_true', List.any_eq_false] at hnone
      simpa using hnone r hr
    · exact absurd h (by simp)
  · exact absurd h (by simp)

/-! ## The cull chain (R129) -/

/-- An end that every rejecter lies before, or starts Cmin or more after. -/
def ChainClosed (cmin : Nat) (found : List Rejecter) (e : Nat) : Prop :=
  ∀ r ∈ found, r.first < e + cmin → r.last + 1 ≤ e

theorem chainPass_ge (cmin : Nat) (rs : List Rejecter) : ∀ e, e ≤ chainPass cmin rs e := by
  unfold chainPass
  induction rs with
  | nil => exact Nat.le_refl
  | cons r rs ih =>
    intro e
    refine Nat.le_trans ?_ (ih _)
    show e ≤ if r.first < e + cmin then max e (r.last + 1) else e
    split <;> omega

/-- A pass takes in every rejecter that starts early enough where the pass begins. -/
theorem chainPass_takes (cmin : Nat) (rs : List Rejecter) :
    ∀ e, ∀ r ∈ rs, r.first < e + cmin → r.last + 1 ≤ chainPass cmin rs e := by
  induction rs with
  | nil => simp
  | cons x rs ih =>
    intro e r hr h
    have hge := chainPass_ge cmin rs (if x.first < e + cmin then max e (x.last + 1) else e)
    show r.last + 1 ≤ chainPass cmin rs (if x.first < e + cmin then max e (x.last + 1) else e)
    rcases List.mem_cons.mp hr with rfl | hr
    · simp only [h, if_true] at hge ⊢
      omega
    · refine ih _ r hr ?_
      split <;> omega

theorem chainPass_le_closed {cmin : Nat} {rs found : List Rejecter} {e' : Nat} (hsub : ∀ r ∈ rs, r ∈ found)
    (hc : ChainClosed cmin found e') : ∀ e, e ≤ e' → chainPass cmin rs e ≤ e' := by
  induction rs with
  | nil => exact fun _ h => h
  | cons x rs ih =>
    intro e h
    refine ih (fun r hr => hsub r (List.mem_cons_of_mem _ hr)) _ ?_
    show (if x.first < e + cmin then max e (x.last + 1) else e) ≤ e'
    split
    · have := hc x (hsub x List.mem_cons_self) (by omega)
      omega
    · exact h

theorem chainPass_of_closed {cmin : Nat} {found : List Rejecter} {e : Nat} (h : ChainClosed cmin found e) :
    chainPass cmin found e = e :=
  Nat.le_antisymm (chainPass_le_closed (fun _ h => h) h e (Nat.le_refl _)) (chainPass_ge _ _ _)

theorem chainEnd_ge (cmin : Nat) (found : List Rejecter) : ∀ n e, e ≤ chainEnd cmin found n e
  | 0, e => Nat.le_refl e
  | n + 1, e => Nat.le_trans (chainPass_ge cmin found e) (chainEnd_ge cmin found n _)

theorem chainEnd_le_closed {cmin : Nat} {found : List Rejecter} {e' : Nat} (hc : ChainClosed cmin found e') :
    ∀ n e, e ≤ e' → chainEnd cmin found n e ≤ e'
  | 0, _, h => h
  | n + 1, e, h => chainEnd_le_closed hc n _ (chainPass_le_closed (fun _ h => h) hc e h)

theorem chainEnd_of_closed {cmin : Nat} {found : List Rejecter} {e : Nat} (h : ChainClosed cmin found e) :
    ∀ n, chainEnd cmin found n e = e
  | 0 => rfl
  | n + 1 => by rw [chainEnd, chainPass_of_closed h, chainEnd_of_closed h n]

/-- A pass that starts from no closed end leaves fewer rejecters that reach beyond its end. -/
theorem chainPass_beyond {cmin : Nat} {found : List Rejecter} {e : Nat} (h : ¬ChainClosed cmin found e) :
    (found.countP fun r => decide (chainPass cmin found e < r.last + 1)) <
      found.countP fun r => decide (e < r.last + 1) := by
  unfold ChainClosed at h
  simp only [Classical.not_forall, Nat.not_le] at h
  obtain ⟨r, hr, hstart, hbeyond⟩ := h
  have hge := chainPass_ge cmin found e
  have htaken := chainPass_takes cmin found e r hr hstart
  generalize chainPass cmin found e = e' at hge htaken
  induction found with
  | nil => simp at hr
  | cons x rs ih =>
    have hmono : (rs.countP fun r => decide (e' < r.last + 1)) ≤ rs.countP fun r => decide (e < r.last + 1) :=
      List.countP_mono_left fun y _ hy => by simp at hy ⊢; omega
    rcases List.mem_cons.mp hr with rfl | hr
    · rw [List.countP_cons_of_neg (by simp; omega), List.countP_cons_of_pos (by simp; omega)]
      omega
    · have := ih hr
      simp only [List.countP_cons, decide_eq_true_eq]
      split <;> split <;> omega

/-- As many passes as rejecters reach a closed end. -/
theorem chainEnd_closed {cmin : Nat} {found : List Rejecter} :
    ∀ n e, (found.countP fun r => decide (e < r.last + 1)) ≤ n → ChainClosed cmin found (chainEnd cmin found n e)
  | 0, e, h => fun r hr _ => by
    have := List.countP_eq_zero.mp (Nat.le_zero.mp h) r hr
    simp only [decide_eq_true_eq] at this
    simp only [chainEnd]
    omega
  | n + 1, e, h => by
    by_cases hc : ChainClosed cmin found e
    · rw [chainEnd_of_closed hc]
      exact hc
    · exact chainEnd_closed n _ (by have := chainPass_beyond hc; omega)

/-- The end of the cull chain is the least closed end from its first rejecter on (R129). -/
theorem cullChain_end (cmin : Nat) (r : Rejecter) (rs : List Rejecter) :
    ChainEnd cmin (r :: rs) ((leastBy Rejecter.first r rs).last + 1) (cullChain cmin r rs) :=
  ⟨chainEnd_ge _ _ _ _, chainEnd_closed _ _ List.countP_le_length, fun _ h hc => chainEnd_le_closed hc _ _ h⟩

/-- Glass is not fully inspected where W lies short of it or a blind span meets it (R117, R123, R127). -/
theorem notInspected_eq (s : State) (start stop : Nat) :
    s.notInspected start stop =
      (decide (s.map.w < stop) || s.map.spans.any fun x => x.first < stop && start ≤ x.last) := by
  have h : ∀ xs : List Span,
      (!(xs.filter fun x => alongMeets x.first x.last start stop).isEmpty) =
        xs.any fun x => alongMeets x.first x.last start stop := by
    intro xs
    induction xs with
    | nil => rfl
    | cons x xs ih => cases hx : alongMeets x.first x.last start stop <;> simp_all
  exact congrArg (decide (s.map.w < stop) || ·) (h s.map.spans)

/-- The flags of the row of a PRODUCT course: it is forced when W lies short of its end (R117, R127, R130, R131). -/
theorem productRow_forced (s : State) (c : ProductCourse) :
    (productRow s c).forced = true ↔ s.map.w < (productRow s c).stop := by
  unfold productRow
  simp only
  split
  · exact decide_eq_true_iff
  · split
    · exact decide_eq_true_iff
    · split <;> exact decide_eq_true_iff

/-- A CULL row over a chain of rejecters is Cmin to Cmax long, where Cmin is no longer than Cmax (R131). -/
theorem chainRow_spec (s : State) (r : Rejecter) (rs : List Rejecter) (h : s.conf.cmin ≤ s.conf.cmax) :
    (chainRow s r rs).kind = .cull ∧ (chainRow s r rs).order = none ∧ (chainRow s r rs).orderPlates = 0 ∧
      s.planner.s + s.conf.cmin ≤ (chainRow s r rs).stop ∧ (chainRow s r rs).stop ≤ s.planner.s + s.conf.cmax := by
  simp only [chainRow, productCullRow, cullRow, true_and]
  omega

/-- The row of a PRODUCT course: a PRODUCT row of Lp over a candidate without rejecters, a SHORT row that no rejecter meets,
or a CULL row (R127 to R131). -/
theorem productRow_cases (s : State) (c : ProductCourse) :
    let columns := s.production.patterns[c.pattern]
    let candidate : Candidate := ⟨s.planner.s, s.planner.s + c.lp, columns, c.grade⟩
    ((productRow s c).kind = .product ∧ (productRow s c).stop = s.planner.s + c.lp ∧ columns ≠ [] ∧
        rejecters s candidate = []) ∨
      (∃ length, (productRow s c).kind = .short ∧ (productRow s c).stop = s.planner.s + length ∧ c.short = some length ∧
        ∀ r ∈ rejecters s candidate, alongMeets r.first r.last s.planner.s (s.planner.s + length) = false) ∨
      (productRow s c).kind = .cull := by
  simp only
  unfold productRow
  simp only
  split
  · exact Or.inr (Or.inr rfl)
  · rename_i hne
    split
    · rename_i hnil
      exact Or.inl ⟨rfl, rfl, by simpa using hne, hnil⟩
    · rename_i r rs hrs
      split
      · rename_i length hfit
        obtain ⟨hshort, -, hnone⟩ := shortFits_spec hfit
        exact Or.inr (Or.inl ⟨length, rfl, rfl, hshort, by rw [hrs]; exact hnone⟩)
      · exact Or.inr (Or.inr rfl)

/-! ## The commit -/

/-- The commit's row joins the row table, and its trailing cut the cut queue (R122). -/
theorem commitRow_spec (course : Course) (s : State) :
    (commitRow course s).planner =
        { s.planner with
          state := .armed
          s := (decidedRow s course).stop
          nextRowId := wrapSucc s.planner.nextRowId
          course := none
          rows := s.planner.rows ++ [(decidedRow s course).row s.planner.nextRowId s.planner.s] } ∧
      (commitRow course s).dispatcher =
        { s.dispatcher with
          cuts :=
            s.dispatcher.cuts ++
              [⟨s.dispatcher.nextSeq, (decidedRow s course).stop, (decidedRow s course).kind,
                (decidedRow s course).pattern, some s.planner.nextRowId, .queued⟩]
          nextSeq := wrapSucc s.dispatcher.nextSeq } ∧
      (commitRow course s).production =
        { reservePlates (decidedRow s course).order (decidedRow s course).orderPlates s.production with
          samples := dropDueSample course s.production.samples } := by
  unfold commitRow
  simp only
  split <;> simp [countBlind, appendCut_dispatcher]

/-- The commit writes the planner, the dispatcher, the tables, the compares, the counters and the flags alone (R122). -/
theorem commitRow_frame (course : Course) (s : State) :
    { commitRow course s with
      planner := s.planner, production := s.production, dispatcher := s.dispatcher, travel := s.travel
      accounts := s.accounts, links := s.links } = s := by
  unfold commitRow
  simp only
  split <;>
    exact (congrArg
      (fun t : State =>
        { t with
          planner := s.planner, production := s.production, dispatcher := s.dispatcher, travel := s.travel
          accounts := s.accounts, links := s.links })
      (appendCut_frame _ _ _ _ _) :)

@[simp] theorem commitRow_mode (course : Course) (s : State) : (commitRow course s).mode = s.mode :=
  (congrArg State.mode (commitRow_frame course s) :)
@[simp] theorem commitRow_switch (course : Course) (s : State) : (commitRow course s).switch = s.switch :=
  (congrArg State.switch (commitRow_frame course s) :)
@[simp] theorem commitRow_inReset (course : Course) (s : State) : (commitRow course s).inReset = s.inReset :=
  (congrArg State.inReset (commitRow_frame course s) :)
@[simp] theorem commitRow_conf (course : Course) (s : State) : (commitRow course s).conf = s.conf :=
  (congrArg State.conf (commitRow_frame course s) :)
@[simp] theorem commitRow_intake (course : Course) (s : State) : (commitRow course s).intake = s.intake :=
  (congrArg State.intake (commitRow_frame course s) :)
@[simp] theorem commitRow_refs (course : Course) (s : State) : (commitRow course s).refs = s.refs :=
  (congrArg State.refs (commitRow_frame course s) :)
@[simp] theorem commitRow_assembler (course : Course) (s : State) : (commitRow course s).assembler = s.assembler :=
  (congrArg State.assembler (commitRow_frame course s) :)
@[simp] theorem commitRow_map (course : Course) (s : State) : (commitRow course s).map = s.map :=
  (congrArg State.map (commitRow_frame course s) :)
@[simp] theorem commitRow_recipes (course : Course) (s : State) : (commitRow course s).recipes = s.recipes :=
  (congrArg State.recipes (commitRow_frame course s) :)
@[simp] theorem commitRow_grader (course : Course) (s : State) : (commitRow course s).grader = s.grader :=
  (congrArg State.grader (commitRow_frame course s) :)
@[simp] theorem commitRow_pending (course : Course) (s : State) : (commitRow course s).pending = s.pending :=
  (congrArg State.pending (commitRow_frame course s) :)

/-- The travel unit after a commit: the compare of the head cut first, then the deadline compare at the new plan start. -/
theorem commitRow_travel (course : Course) (s : State) :
    let d := decidedRow s course
    (commitRow course s).travel =
      { (appendCut d.stop d.kind d.pattern (some s.planner.nextRowId) s).travel with
        deadline := some d.stop }.raiseDeadline s.conf := by
  simp only [commitRow, armDeadline]
  split <;>
    simp only [countBlind, raise_travel, raise_conf, count_travel, count_conf, appendCut_conf] <;>
    refine congrArg
      (fun t : Travel => { t with deadline := some (decidedRow s course).stop }.raiseDeadline s.conf)
      (appendCut_travel_congr _ _ _ _ ?_ ?_ ?_) <;>
    rfl

/-- The counters and the flags after a commit: BLIND with its count where the row is blind (R122). -/
theorem commitRow_accounts_links (course : Course) (s : State) :
    let d := decidedRow s course
    (commitRow course s).accounts =
        { s.accounts with
          counts :=
            { s.accounts.counts with
              blindRows := if d.blind then bump s.accounts.counts.blindRows else s.accounts.counts.blindRows } } ∧
      (commitRow course s).links =
        { s.links with
          supervisor :=
            { s.links.supervisor with flags := s.links.supervisor.flags ||| (if d.blind then 8 else 0) } } := by
  simp only [commitRow, armDeadline]
  split <;>
    simp [countBlind, raise, State.setLink, State.link, Event.link, Links.set, Links.get, State.count, flagBit, Event.flag]

/-- What a commit does, once for every course (R122). -/
theorem commitRow_laid (course : Course) (s : State) :
    RowLaid s (setRisenLevels s (commitRow course s))
      ((decidedRow s course).row s.planner.nextRowId s.planner.s) (decidedRow s course).blind := by
  obtain ⟨hp, hd, hprod⟩ := commitRow_spec course s
  have ht := commitRow_travel course s
  obtain ⟨ha, hl⟩ := commitRow_accounts_links course s
  have hframe := commitRow_frame course s
  generalize hdr : decidedRow s course = d at *
  have hready : (commitRow course s).ready = true := by simp [State.ready, hd]
  have hroute : (commitRow course s).routeWaiting = s.routeWaiting := by simp [State.routeWaiting, hd]
  have hat := appendCut_travel d.stop d.kind d.pattern (some s.planner.nextRowId) s
  simp only at ht
  generalize hc : appendCut d.stop d.kind d.pattern (some s.planner.nextRowId) s = c at ht hat
  have hcp : c.travel.p = s.travel.p := (congrArg Travel.p hat :)
  have hcr : c.travel.deadlineRaised = s.travel.deadlineRaised := (congrArg Travel.deadlineRaised hat :)
  have he := raiseDeadline_expiry s.conf { c.travel with deadline := some d.stop }
  have her := raiseDeadline_expiryRaised s.conf { c.travel with deadline := some d.stop }
  have hdf := raiseDeadline_frame s.conf { c.travel with deadline := some d.stop }
  refine ⟨?_, ?_, ?_, ?_, ?_, ?_, ?_, ?_, ?_, ?_, ?_⟩
  · rw [setRisenLevels_planner, hp]; rfl
  · rw [setRisenLevels_dispatcher, hd]; rfl
  · intro h
    have h' : ¬ (d.stop + s.conf.dCut - s.conf.dCommit ≤ s.travel.p) := Nat.not_le.2 h
    rw [setRisenLevels_travel, ht]
    simp [Travel.raiseDeadline, Conf.commitPoint, h', hcp, hcr]
    rfl
  · intro h
    have h' : d.stop + s.conf.dCut - s.conf.dCommit ≤ s.travel.p := h
    rw [setRisenLevels_travel, ht]
    simp [Travel.raiseDeadline, Conf.commitPoint, h', hcp]
    rfl
  · intro h
    have := appendCut_follows d.stop d.kind d.pattern (some s.planner.nextRowId) h
    rw [hc] at this
    refine this.congr ?_ ?_ ?_ ?_ ?_
    · rw [setRisenLevels_dispatcher, hd, ← hc, appendCut_dispatcher]
    · rw [setRisenLevels_travel, ht, he]
    · rw [setRisenLevels_travel, ht, her]
    · rw [setRisenLevels_conf, ← hc]; simp
    · rw [setRisenLevels_travel, ht, hcp, ← hcp]; exact (congrArg Travel.p hdf :)
  · intro h
    have := appendCut_behind d.stop d.kind d.pattern (some s.planner.nextRowId) h
    rw [hc] at this
    rw [setRisenLevels_travel, ht, he, her, this]
    exact ⟨rfl, rfl⟩
  · rw [setRisenLevels_accounts, ha]; rfl
  · have hst : (setRisenLevels s (commitRow course s)).starved = (commitRow course s).starved := by
      simp [State.starved]
    rw [hst]
    unfold setRisenLevels setIfRisen
    cases s.ready <;> cases h : s.routeWaiting <;> cases s.starved <;> cases (commitRow course s).starved <;>
      simp [hready, hroute, h, raise, State.setLink, State.link, Event.link, Links.set, Links.get, flagBit, Event.flag, hl]
  · rw [setRisenLevels_travel, ht]
    exact (congrArg
      (fun t : Travel =>
        { t with
          deadline := s.travel.deadline, deadlineRaised := s.travel.deadlineRaised
          expiry := s.travel.expiry, expiryRaised := s.travel.expiryRaised }) hdf :).trans
      (congrArg
        (fun t : Travel =>
          { t with deadline := s.travel.deadline, deadlineRaised := s.travel.deadlineRaised }) hat :)
  · rw [setRisenLevels_production, hprod]
    simp only [reservePlates]
    split
    · split <;> rfl
    · rfl
  · exact (congrArg
      (fun t : State =>
        { t with
          planner := s.planner, dispatcher := s.dispatcher, travel := s.travel, accounts := s.accounts
          links := s.links, production := s.production })
      (setRisenLevels_frame s (commitRow course s)) :).trans hframe

/-- Settling writes what a due step or a held commit may write, and never the map, the table, the intake, the
configuration, the recipes, the grader or the mode. -/
theorem settle_frame (s : State) :
    { settle s with
      planner := s.planner, production := s.production, dispatcher := s.dispatcher, travel := s.travel
      accounts := s.accounts, links := s.links } = s := by
  have hheld : ∀ u : State,
      { settleHeld u with
        planner := s.planner, production := s.production, dispatcher := s.dispatcher, travel := s.travel
        accounts := s.accounts, links := s.links } =
      { u with
        planner := s.planner, production := s.production, dispatcher := s.dispatcher, travel := s.travel
        accounts := s.accounts, links := s.links } := by
    intro u
    unfold settleHeld makeHeldCommit asEvent
    split
    · split
      · exact ((congrArg
            (fun t : State =>
              { t with
                planner := s.planner, production := s.production, dispatcher := s.dispatcher, travel := s.travel
                accounts := s.accounts, links := s.links })
            (setRisenLevels_frame _ _) :).trans
          (congrArg
            (fun t : State =>
              { t with
                planner := s.planner, production := s.production, dispatcher := s.dispatcher, travel := s.travel
                accounts := s.accounts, links := s.links })
            (commitRow_frame _ u) :))
      · rfl
    · rfl
  unfold settle
  rw [hheld]
  have hstep : ∀ u : State,
      { settleStep u with
        planner := s.planner, production := s.production, dispatcher := s.dispatcher, travel := s.travel
        accounts := s.accounts, links := s.links } =
      { u with
        planner := s.planner, production := s.production, dispatcher := s.dispatcher, travel := s.travel
        accounts := s.accounts, links := s.links } := by
    intro u
    unfold settleStep
    split
    · exact (congrArg
        (fun t : State =>
          { t with
            planner := s.planner, production := s.production, dispatcher := s.dispatcher, travel := s.travel
            accounts := s.accounts, links := s.links })
        (stepTime_frame u) :)
    · rfl
  rw [hstep]
  unfold settleStop
  split <;> rfl

@[simp] theorem settle_mode (s : State) : (settle s).mode = s.mode :=
  (congrArg State.mode (settle_frame s) :)
@[simp] theorem settle_switch (s : State) : (settle s).switch = s.switch :=
  (congrArg State.switch (settle_frame s) :)
@[simp] theorem settle_inReset (s : State) : (settle s).inReset = s.inReset :=
  (congrArg State.inReset (settle_frame s) :)
@[simp] theorem settle_conf (s : State) : (settle s).conf = s.conf :=
  (congrArg State.conf (settle_frame s) :)
@[simp] theorem settle_intake (s : State) : (settle s).intake = s.intake :=
  (congrArg State.intake (settle_frame s) :)
@[simp] theorem settle_refs (s : State) : (settle s).refs = s.refs :=
  (congrArg State.refs (settle_frame s) :)
@[simp] theorem settle_assembler (s : State) : (settle s).assembler = s.assembler :=
  (congrArg State.assembler (settle_frame s) :)
@[simp] theorem settle_map (s : State) : (settle s).map = s.map :=
  (congrArg State.map (settle_frame s) :)
@[simp] theorem settle_recipes (s : State) : (settle s).recipes = s.recipes :=
  (congrArg State.recipes (settle_frame s) :)
@[simp] theorem settle_grader (s : State) : (settle s).grader = s.grader :=
  (congrArg State.grader (settle_frame s) :)
@[simp] theorem settle_pending (s : State) : (settle s).pending = s.pending :=
  (congrArg State.pending (settle_frame s) :)

/-! ## Mode entry -/

/-- A mode entry writes the mode, the switch, the planner, the cut queue, the compares and the flags alone (R119, R183). -/
theorem enterMode_frame (m : Mode) (s : State) :
    { enterMode m s with
      mode := s.mode, switch := s.switch, planner := s.planner, dispatcher := s.dispatcher, travel := s.travel
      links := s.links } = s := by
  unfold enterMode enterPlanner
  simp only
  exact ((congrArg
      (fun t : State =>
        { t with
          mode := s.mode, switch := s.switch, planner := s.planner, dispatcher := s.dispatcher, travel := s.travel
          links := s.links })
      (evaluateStale_frame _) :).trans
    (congrArg
      (fun t : State =>
        { t with
          mode := s.mode, switch := s.switch, planner := s.planner, dispatcher := s.dispatcher, travel := s.travel
          links := s.links })
      (appendCut_frame _ _ _ _ _) :))

end Sys2Proof.Machine
end

