-- ==== Sys2Proof/Laws/Grader.lean ====
section
/-!
SUPPORT. The grader's operations: what closing a piece may write, and the counts of plates.
-/

namespace Sys2Proof.Machine

/-! ## Orders of plates -/

/-- An order plate's accounting writes the order list and the FILLED flag alone (R97, R164). -/
theorem accountPlate_frame (id : Nat) (delivers : Bool) (s : State) :
    { accountPlate id delivers s with production := s.production, links := s.links } = s := by
  unfold accountPlate
  split
  · simp only
    split <;> rfl
  · rfl

/-- One plate formed writes the plate ids, the order list and the FILLED flag alone (R166, step 1). -/
theorem formPlate_frame (c : Closing) (acc : State × List Plate) (b : Blank) :
    { (formPlate c acc b).1 with grader := acc.1.grader, production := acc.1.production, links := acc.1.links } =
      acc.1 := by
  unfold formPlate
  simp only
  split
  · exact (congrArg
      (fun t : State => { t with grader := acc.1.grader, production := acc.1.production, links := acc.1.links })
      (accountPlate_frame _ _ { acc.1 with grader := takePlateId acc.1.grader }) :)
  · rfl

/-- The plates formed are one for each plate the piece is divided into. -/
theorem formPlates_length (c : Closing) (bs : List Blank) (acc : State × List Plate) :
    (bs.foldl (formPlate c) acc).2.length = acc.2.length + bs.length := by
  induction bs generalizing acc with
  | nil => rfl
  | cons b bs ih =>
    rw [List.foldl_cons, ih]
    simp [formPlate]
    omega

/-! ## Logging and counting -/

/-- A log entry written is the newest of at most 64 (R167). -/
theorem logPlate_log (e : PlateEntry) (s : State) :
    (logPlate e s).grader.log =
      (if s.grader.log.length < 64 then s.grader.log else s.grader.log.drop 1) ++ [e] := rfl

theorem logPlate_frame (e : PlateEntry) (s : State) : { logPlate e s with grader := s.grader } = s := rfl

/-- A plate counted writes the accounts alone (R171, R172). -/
theorem countPlate_frame (p : Plate) (s : State) : { countPlate p s with accounts := s.accounts } = s := by
  unfold countPlate
  simp only
  split <;> rfl

theorem sum_set_succ (l : List Nat) (i : Nat) (h : i < l.length) : (l.set i (l[i] + 1)).sum = l.sum + 1 := by
  induction l generalizing i with
  | nil => exact absurd h (by simp)
  | cons x l ih =>
    cases i with
    | zero => simp; omega
    | succ i =>
      simp only [List.set_cons_succ, List.getElem_cons_succ, List.sum_cons, ih i (by simpa using h)]
      omega

theorem vector_sum_set_succ {n : Nat} (v : Vector Nat n) (i : Fin n) :
    (v.set i (v[i] + 1)).toList.sum = v.toList.sum + 1 := by
  rcases v with ⟨⟨l⟩, hl⟩
  exact sum_set_succ l i (by have := i.isLt; simp at hl; omega)

/-- A plate is counted by grade and by destination class, or by neither, so the two sums stay equal (R171). -/
theorem addPlate_platesAgree (g : Grade) (d : DestClass) {c : Counts} (h : c.platesAgree) : (c.addPlate g d).platesAgree := by
  unfold Counts.platesAgree at *
  unfold Counts.addPlate
  split
  · exact (vector_sum_set_succ c.byGrade g.slot).trans ((congrArg (· + 1) h).trans (vector_sum_set_succ c.byDest d.slot).symm)
  · exact h

end Sys2Proof.Machine
end

