-- ==== Sys2Proof/Laws/PerInstr.lean ====
section
/-!
SUPPORT. One lemma per command on the transfer it is made of (family Encoding of LAWS.json).
-/

namespace Sys2Proof.Laws.Encoding

/-- The transfer of a well-formed command has a legal partial word, and a complete word unless it is the empty transfer
(R17). -/
def Statement (i : Instr) : Prop :=
  ∀ tr, WellFormed i = true → encode i = some tr →
    tr.tail < 16 ∧ (tr.words = [] → ∃ l tail, i = .emptyTransfer l tail)

/-- A command that no master sends is made of no transfer. -/
theorem of_none {i : Instr} (h : encode i = none) : Statement i := fun tr _ he => absurd (h.symm.trans he) (by simp)

/-- A command with a command word. -/
theorem of_transfer {i : Instr} {l : Link} {code arg : Byte} {b : Body} (h : encode i = some (transferOf l code arg b)) :
    Statement i := by
  intro tr hw he
  obtain rfl : transferOf l code arg b = tr := Option.some.inj (h.symm.trans he)
  refine ⟨?_, fun hwords => absurd hwords (by simp [transferOf])⟩
  have htail : i.tailWf = true := (Bool.and_eq_true _ _ ▸ hw : _ ∧ _).2
  simpa [Instr.tailWf, h] using htail

theorem powerOn : Statement .powerOn := of_none rfl
theorem pinReset (heldNs : Nat) : Statement (.pinReset heldNs) := of_none rfl
theorem internalResetEnd : Statement .internalResetEnd := of_none rfl
theorem encPulse : Statement .encPulse := of_none rfl
theorem tick : Statement .tick := of_none rfl
theorem stoppedSet : Statement .stoppedSet := of_none rfl
theorem timeStep : Statement .timeStep := of_none rfl
theorem deadlineEvent : Statement .deadlineEvent := of_none rfl
theorem commit : Statement .commit := of_none rfl
theorem heldCommit : Statement .heldCommit := of_none rfl
theorem expiry : Statement .expiry := of_none rfl
theorem emptyTransfer (l : Link) (tail : Nat) : Statement (.emptyTransfer l tail) := by
  intro tr hw he
  obtain rfl : (⟨l, [], tail⟩ : Transfer) = tr := Option.some.inj he
  exact ⟨by simpa [WellFormed, Instr.argWf, Instr.tailWf, encode] using hw, fun _ => ⟨l, tail, rfl⟩⟩
theorem unknownCommand (l : Link) (code arg : Byte) (b : Body) : Statement (.unknownCommand l code arg b) := of_transfer rfl
theorem nop (l : Link) (arg : Byte) (b : Body) : Statement (.nop l arg b) := of_transfer rfl
theorem evt (l : Link) (arg : Byte) (b : Body) : Statement (.evt l arg b) := of_transfer rfl
theorem mask (l : Link) (arg : Byte) (b : Body) : Statement (.mask l arg b) := of_transfer rfl
theorem pos (l : Link) (arg : Byte) (b : Body) : Statement (.pos l arg b) := of_transfer rfl
theorem det (l : Link) (arg : Byte) (b : Body) : Statement (.det l arg b) := of_transfer rfl
theorem bkg (l : Link) (arg : Byte) (b : Body) : Statement (.bkg l arg b) := of_transfer rfl
theorem mark (l : Link) (arg : Byte) (b : Body) : Statement (.mark l arg b) := of_transfer rfl
theorem gap (l : Link) (arg : Byte) (b : Body) : Statement (.gap l arg b) := of_transfer rfl
theorem gstat (l : Link) (arg : Byte) (b : Body) : Statement (.gstat l arg b) := of_transfer rfl
theorem entryTake : Statement .entryTake := of_none rfl
theorem backgroundEntryComplete : Statement .backgroundEntryComplete := of_none rfl
theorem detectionEntryComplete : Statement .detectionEntryComplete := of_none rfl
theorem markEntryComplete : Statement .markEntryComplete := of_none rfl
theorem gapEntryComplete : Statement .gapEntryComplete := of_none rfl
theorem take (l : Link) (arg : Byte) (b : Body) : Statement (.take l arg b) := of_transfer rfl
theorem doneOk (l : Link) (arg : Byte) (b : Body) : Statement (.doneOk l arg b) := of_transfer rfl
theorem doneMissed (l : Link) (b : Body) : Statement (.doneMissed l b) := of_transfer rfl
theorem route (l : Link) (arg : Byte) (b : Body) : Statement (.route l arg b) := of_transfer rfl
theorem cstat (l : Link) (arg : Byte) (b : Body) : Statement (.cstat l arg b) := of_transfer rfl
theorem pieceTake : Statement .pieceTake := of_none rfl
theorem cullPieceClose : Statement .cullPieceClose := of_none rfl
theorem platePieceClose : Statement .platePieceClose := of_none rfl
theorem modeRead (l : Link) (arg : Byte) (b : Body) : Statement (.modeRead l arg b) := of_transfer rfl
theorem modeRun (l : Link) (b : Body) : Statement (.modeRun l b) := of_transfer rfl
theorem modeCull (l : Link) (b : Body) : Statement (.modeCull l b) := of_transfer rfl
theorem modeSetup (l : Link) (b : Body) : Statement (.modeSetup l b) := of_transfer rfl
theorem restart (l : Link) (arg : Byte) (b : Body) : Statement (.restart l arg b) := of_transfer rfl
theorem time (l : Link) (arg : Byte) (b : Body) : Statement (.time l arg b) := of_transfer rfl
theorem shiftsWrite (l : Link) (b : Body) : Statement (.shiftsWrite l b) := of_transfer rfl
theorem shiftsRead (l : Link) (arg : Byte) (b : Body) : Statement (.shiftsRead l arg b) := of_transfer rfl
theorem shiftClose (l : Link) (arg : Byte) (b : Body) : Statement (.shiftClose l arg b) := of_transfer rfl
theorem report (l : Link) (arg : Byte) (b : Body) : Statement (.report l arg b) := of_transfer rfl
theorem patWrite (l : Link) (arg : Byte) (b : Body) : Statement (.patWrite l arg b) := of_transfer rfl
theorem patRead (l : Link) (arg : Byte) (b : Body) : Statement (.patRead l arg b) := of_transfer rfl
theorem ordAdd (l : Link) (arg : Byte) (b : Body) : Statement (.ordAdd l arg b) := of_transfer rfl
theorem ordClose (l : Link) (arg : Byte) (b : Body) : Statement (.ordClose l arg b) := of_transfer rfl
theorem ordDrop (l : Link) (arg : Byte) (b : Body) : Statement (.ordDrop l arg b) := of_transfer rfl
theorem ordRead (l : Link) (arg : Byte) (b : Body) : Statement (.ordRead l arg b) := of_transfer rfl
theorem rcpWriteKind (l : Link) (arg : Byte) (b : Body) : Statement (.rcpWriteKind l arg b) := of_transfer rfl
theorem rcpWriteLimits (l : Link) (b : Body) : Statement (.rcpWriteLimits l b) := of_transfer rfl
theorem rcpWritePolicy (l : Link) (b : Body) : Statement (.rcpWritePolicy l b) := of_transfer rfl
theorem rcpCopy (l : Link) (b : Body) : Statement (.rcpCopy l b) := of_transfer rfl
theorem rcpRead (l : Link) (arg : Byte) (b : Body) : Statement (.rcpRead l arg b) := of_transfer rfl
theorem rcpArm (l : Link) (arg : Byte) (b : Body) : Statement (.rcpArm l arg b) := of_transfer rfl
theorem rcpDisarm (l : Link) (b : Body) : Statement (.rcpDisarm l b) := of_transfer rfl
theorem sampleRequest (l : Link) (b : Body) : Statement (.sampleRequest l b) := of_transfer rfl
theorem sampleCancel (l : Link) (b : Body) : Statement (.sampleCancel l b) := of_transfer rfl
theorem sampleRead (l : Link) (arg : Byte) (b : Body) : Statement (.sampleRead l arg b) := of_transfer rfl
theorem flaw (l : Link) (arg : Byte) (b : Body) : Statement (.flaw l arg b) := of_transfer rfl
theorem plate (l : Link) (arg : Byte) (b : Body) : Statement (.plate l arg b) := of_transfer rfl
theorem window (l : Link) (arg : Byte) (b : Body) : Statement (.window l arg b) := of_transfer rfl
theorem confEncoderScale (l : Link) (b : Body) : Statement (.confEncoderScale l b) := of_transfer rfl
theorem confDCut (l : Link) (b : Body) : Statement (.confDCut l b) := of_transfer rfl
theorem confDCommit (l : Link) (b : Body) : Statement (.confDCommit l b) := of_transfer rfl
theorem confTLate (l : Link) (b : Body) : Statement (.confTLate l b) := of_transfer rfl
theorem confClockSelect (l : Link) (b : Body) : Statement (.confClockSelect l b) := of_transfer rfl
theorem confStaleDistance (l : Link) (b : Body) : Statement (.confStaleDistance l b) := of_transfer rfl
theorem confKu (l : Link) (b : Body) : Statement (.confKu l b) := of_transfer rfl
theorem confKd (l : Link) (b : Body) : Statement (.confKd l b) := of_transfer rfl
theorem confJ (l : Link) (b : Body) : Statement (.confJ l b) := of_transfer rfl
theorem confG (l : Link) (b : Body) : Statement (.confG l b) := of_transfer rfl
theorem confNetZone (l : Link) (b : Body) : Statement (.confNetZone l b) := of_transfer rfl
theorem confCmin (l : Link) (b : Body) : Statement (.confCmin l b) := of_transfer rfl
theorem confCmax (l : Link) (b : Body) : Statement (.confCmax l b) := of_transfer rfl
theorem confCullMargin (l : Link) (b : Body) : Statement (.confCullMargin l b) := of_transfer rfl
theorem confLs (l : Link) (b : Body) : Statement (.confLs l b) := of_transfer rfl
theorem confQ (l : Link) (b : Body) : Statement (.confQ l b) := of_transfer rfl
theorem confTDev (l : Link) (b : Body) : Statement (.confTDev l b) := of_transfer rfl
theorem confLaneExtent (l : Link) (arg : Byte) (b : Body) : Statement (.confLaneExtent l arg b) := of_transfer rfl
theorem confDestination (l : Link) (arg : Byte) (b : Body) : Statement (.confDestination l arg b) := of_transfer rfl

end Sys2Proof.Laws.Encoding
end

