-- ==== Sys2Proof/Tests/Slice0.lean ====
section
/-!
SUPPORT. Small tests: the ill-formed terms the check refuses, the worked cases of the manual one step at a time, and for
each statement of the certificates a concrete state and operands that meet its hypotheses.
-/

open Sys2Proof Sys2Proof.Machine

namespace Sys2Proof.Tests

set_option Elab.async false

/-! ## Helpers -/

/-- The next state of a command; the state itself where the command gives none. -/
def after (c : Instr) (s : State) : State :=
  match exec c s with
  | .next t => t
  | _ => s

/-- Data words with nothing after them. -/
def body (ws : List Word) : Body := ⟨ws, 0⟩

/-- A part in RUN at a travel count, with its watermark. -/
def running (p w : Nat) : State :=
  { State.reset with
    mode := .run
    travel := { State.reset.travel with p := p }
    map := { State.reset.map with w := w } }

/-- A part with an entry in process. -/
def processing (e : Entry) (s : State) : State := { s with intake := { s.intake with inProcess := some e } }

/-- A part with given open flaws, in slots from 0. -/
def withOpen (flaws : List (Fin 32 × OpenFlaw)) (s : State) : State :=
  { s with assembler := { s.assembler with slots := flaws.foldl (fun v x => v.set x.1 (some x.2)) s.assembler.slots } }

/-- A part with a map of given records. -/
def withFlaws (flaws : List FlawRecord) (s : State) : State := { s with map := { s.map with flaws := flaws } }

/-- A part with given blind spans. -/
def withSpans (spans : List Span) (s : State) : State := { s with map := { s.map with spans := spans } }

/-- A part with given orders. -/
def withOrders (orders : List Order) (s : State) : State := { s with production := { s.production with orders := orders } }

/-- A part with a cut queue and A_last. -/
def withCuts (cuts : List Cut) (aLast : Option Nat) (s : State) : State :=
  { s with dispatcher := { s.dispatcher with cuts := cuts, aLast := aLast } }

/-- A part with a row table. -/
def withRows (rows : List Row) (s : State) : State := { s with planner := { s.planner with rows := rows } }

/-- A part whose planner decides a course from a plan start. -/
def deciding (start : Nat) (course : Course) (s : State) : State :=
  { s with planner := { s.planner with state := .deciding, s := start, course := some course } }

/-- A part with a piece in process. -/
def closing (c : Closing) (s : State) : State := { s with grader := { s.grader with closing := some c } }

/-! ## Well-formedness: an ill-formed term for each check -/

theorem test_wf_refuses_a_defined_code_as_unknown :
    WellFormed (.unknownCommand .gantry 0x10 0 (body [])) = false ∧
      WellFormed (.unknownCommand .gantry 0x15 0 (body [])) = true := by decide +kernel

theorem test_wf_refuses_the_arguments_of_other_rows :
    WellFormed (.doneOk .cutter 1 (body [])) = false ∧ WellFormed (.modeRead .supervisor 2 (body [])) = false ∧
      WellFormed (.shiftsRead .supervisor 0 (body [])) = false ∧ WellFormed (.patWrite .supervisor 0x80 (body [])) = false ∧
      WellFormed (.patRead .supervisor 0x7F (body [])) = false ∧
      WellFormed (.rcpWriteKind .supervisor 8 (body [])) = false ∧
      WellFormed (.rcpWriteKind .supervisor 0x40 (body [])) = false ∧
      WellFormed (.rcpRead .supervisor 7 (body [])) = false ∧ WellFormed (.rcpArm .supervisor 1 (body [])) = false ∧
      WellFormed (.sampleRead .supervisor 1 (body [])) = false ∧
      WellFormed (.confLaneExtent .supervisor 0x2C (body [])) = false ∧
      WellFormed (.confDestination .supervisor 0x2B (body [])) = false ∧
      WellFormed (.confDestination .supervisor 0x10 (body [])) = false := by decide +kernel

theorem test_wf_refuses_a_partial_word_of_sixteen_bits :
    WellFormed (.nop .gantry 0 ⟨[], 16⟩) = false ∧ WellFormed (.emptyTransfer .gantry 16) = false ∧
      WellFormed (.nop .gantry 0 ⟨[], 15⟩) = true := by decide +kernel

theorem test_exec_refuses_a_defined_code_as_unknown :
    (match exec (.unknownCommand .gantry 0x10 0 (body [])) State.reset with
      | .refused .codeIsDefined => true
      | _ => false) = true := by decide +kernel

/-! ## The machine (O1 to O5) -/

theorem test_witness_step_takes_the_front :
    (match step { State.reset with pending := [.encPulse, .tick] } with
      | .next t => (t.travel.p, t.pending)
      | _ => (0, [])) = (1, [.tick]) := by decide +kernel

theorem test_witness_idle : State.reset.pending = [] := by decide +kernel

theorem test_witness_reset_pulse :
    (after (.pinReset 2000) (running 5 0)).travel.p = 0 ∧ (after (.pinReset 2000) (running 5 0)).inReset = true ∧
      (after (.pinReset 1999) (running 5 0)).travel.p = 5 := by decide +kernel

/-- The part with the internal reset asserted. -/
def held : State := after .powerOn State.reset

theorem test_witness_while_reset :
    held.inReset = true ∧ (after .encPulse held).travel.p = 0 ∧ WellFormed (.evt .gantry 0 (body [0])) = true ∧
      (after (.evt .gantry 0 (body [0])) held).links.gantry.shifted = [0, 0] ∧
      (after .internalResetEnd held).inReset = false := by decide +kernel

/-! ## Travel (O6 to O9) -/

/-- The line of the worked case of section 1.3, with the deadline compare armed for the target 3. -/
def scale1275 (p r : Nat) (deadline : Option Nat) : State :=
  { State.reset with
    conf := { Conf.default with encoderScale := 1275, dCut := 5000, dCommit := 5000 }
    travel := { State.reset.travel with p := p, remainder := r, deadline := deadline } }

theorem test_pulse_before_the_target :
    (after .encPulse (scale1275 0 0 (some 3))).travel.p = 1 ∧
      (after .encPulse (scale1275 0 0 (some 3))).travel.remainder = 275 ∧
      (after .encPulse (scale1275 1 275 (some 3))).travel.p = 2 ∧
      (after .encPulse (scale1275 1 275 (some 3))).travel.remainder = 550 ∧
      (after .encPulse (scale1275 1 275 (some 3))).travel.deadline = some 3 := by decide +kernel

theorem test_pulse_at_the_target_and_past_it :
    (after .encPulse (scale1275 2 550 (some 3))).travel.p = 3 ∧
      (after .encPulse (scale1275 2 550 (some 3))).travel.remainder = 825 ∧
      (after .encPulse (scale1275 2 550 (some 3))).travel.deadlineRaised = some 3 ∧
      (after .encPulse (scale1275 3 825 (some 4))).travel.p = 5 ∧
      (after .encPulse (scale1275 3 825 (some 4))).travel.remainder = 100 ∧
      (after .encPulse (scale1275 3 825 (some 4))).travel.deadlineRaised = some 4 := by decide +kernel

theorem test_witness_working : Working (scale1275 2 550 (some 3)) ∧ Working State.reset ∧ Working (running 5 0) := by
  unfold Working; decide +kernel

theorem test_witness_pulse_at_the_limit :
    let s := { running 4294967295 0 with conf := { Conf.default with encoderScale := 999 } }
    Working s ∧ s.travel.p + (s.travel.remainder + 999) / 1000 ≤ 4294967295 ∧ (after .encPulse s).travel.p = 4294967295 ∧
      (after .encPulse s).travel.remainder = 999 ∧ (after .encPulse (running 4294967295 0)).travel.p = 4294967295 ∧
      (after .encPulse (running 4294967295 0)).travel.remainder = 999 := by unfold Working; decide +kernel

/-- A part whose expiry compare watches cut 410 of section 8.4. -/
def watching (p : Nat) : State :=
  { running p 5138000 with
    travel := { (running p 0).travel with expiry := some ⟨410, 5100000⟩ } }

theorem test_witness_expiry_at_its_threshold :
    Working (watching 5138199) ∧ (after .encPulse (watching 5138199)).travel.expiry = some ⟨410, 5100000⟩ ∧
      (after .encPulse (watching 5138200)).travel.expiry = none ∧
      (after .encPulse (watching 5138200)).travel.expiryRaised = [410] := by unfold Working; decide +kernel

theorem test_witness_stale_at_its_distance :
    Working (running 1999 0) ∧ (after .encPulse (running 1999 0)).links.gantry.flags = 0 ∧
      (after .encPulse (running 2000 0)).links.gantry.flags = 2 ∧
      (after .encPulse (running 2000 0)).links.staleArmed = false := by unfold Working; decide +kernel

/-- A line with a last-pulse time and a millisecond count. -/
def ticking (lastPulse ms : Nat) (stopped : Bool) : State :=
  { running 0 0 with travel := { (running 0 0).travel with lastPulse := lastPulse, ms := ms, stopped := stopped } }

theorem test_witness_tick :
    Working (ticking 1999 998 false) ∧ Working (ticking 5 999 false) ∧
      (after .tick (ticking 1999 998 false)).travel.lastPulse = 2000 ∧
      (after .tick (ticking 1999 998 false)).travel.stopped = false ∧
      (after .tick (ticking 5 999 false)).travel.stepDue = true := by unfold Working; decide +kernel

theorem test_witness_stopped :
    (ticking 2000 0 false).inReset = false ∧ (ticking 2000 0 false).travel.lastPulse = 2000 ∧
      (after .stoppedSet (ticking 2000 0 false)).travel.stopped = true ∧
      (after .stoppedSet (ticking 2000 0 false)).accounts.counts.lineStops = 1 := by decide +kernel

theorem test_pulse_finds_the_due_stop_made :
    (after .encPulse (ticking 2000 0 false)).accounts.counts.lineStops = 1 ∧
      (after .encPulse (ticking 2000 0 false)).travel.stopped = false := by decide +kernel

/-- The part of section 10.4 as the time of day steps onto 06:00:00. -/
def atSix (stepDue : Bool) (start : Nat) : State :=
  { running 0 0 with
    travel := { (running 0 0).travel with seconds := 21599, stepDue := stepDue }
    accounts :=
      { State.reset.accounts with
        shift := 214
        table := #v[⟨false, 21600⟩, ⟨true, start⟩, ⟨false, 0⟩, ⟨false, 0⟩]
        counts :=
          { Counts.zero with
            productArea := 152310
            totalArea := 181775
            runSeconds := 27940
            stoppedSeconds := 859
            lineStops := 3 } } }

theorem test_witness_step_closes_the_shift :
    (atSix true 21600).inReset = false ∧ (atSix true 21600).travel.stepDue = true ∧
      (atSix true 21600).accounts.table[1].enabled = true ∧
      (let t := after .timeStep (atSix true 21600);
        t.travel.seconds = 21600 ∧ t.accounts.shift = 215 ∧ t.accounts.counts = Counts.zero ∧
          t.links.supervisor.flags = 4 ∧
          t.accounts.reports.map (fun r => (r.shift, r.closeTime, r.cause, r.yield)) = [(214, 21600, 1, 837)] ∧
          t.accounts.reports.map (fun r => (r.counts.runSeconds, r.counts.stoppedSeconds)) = [(27940, 860)]) := by decide +kernel

theorem test_witness_step_onto_no_start :
    (∀ i : Fin 4, (atSix true 21601).accounts.table[i].enabled = true → (atSix true 21601).accounts.table[i].start ≠ 21600) ∧
      (after .timeStep (atSix true 21601)).accounts.shift = 214 ∧
      (after .timeStep (atSix true 21601)).accounts.counts.stoppedSeconds = 860 := by decide +kernel

theorem test_midnight :
    nextSecond 86399 = 0 ∧ nextSecond 86398 = 86399 := by decide +kernel

theorem test_yield_of_the_morning :
    ({ Counts.zero with productArea := 506058, totalArea := 524710 } : Counts).yield = 964 ∧ Counts.zero.yield = 0 := by
  decide +kernel

/-! ## The links (O10 to O17) -/

/-- A part with the response of one link pending. -/
def withPending (l : Link) (r : Response) (s : State) : State := s.setLink l { s.link l with pending := r }

theorem test_witness_transfers :
    Working State.reset ∧ codeDefined 0x15 = false ∧
      (after (.unknownCommand .gantry 0x15 0 (body [])) State.reset).links.gantry.pending = ⟨0x15C0, []⟩ ∧
      (after (.nop .cutter 1 (body [0])) State.reset).links.cutter.pending = ⟨0x0000, []⟩ ∧
      (after (.nop .cutter 2 (body [0])) State.reset).links.cutter.pending = ⟨0x008A, []⟩ ∧
      (after (.emptyTransfer .gantry 9) State.reset).links.gantry.shifted = [] := by unfold Working; decide +kernel

/-- The cutter link of section 2.7 before its first transfer. -/
def conversation : State :=
  { withCuts [⟨16, 1000000, .head, none, none, .queued⟩, ⟨17, 1002250, .product, some 2, some 1, .queued⟩] none
      (running 1036000 1003000) with
    links :=
      { State.reset.links with cutter := ⟨⟨0x0200, [0x0089]⟩, 0x81, 0x89, []⟩ } }

theorem test_conversation_evt :
    let t := after (.evt .cutter 0 (body [0])) conversation
    conversation.attention .cutter = true ∧ t.links.cutter.shifted = [0x0200, 0x0089] ∧
      t.links.cutter.pending = ⟨0x0100, [0x0081]⟩ ∧ t.links.cutter.flags = 0 ∧ t.attention .cutter = false := by decide +kernel

theorem test_conversation_take :
    let s := { conversation with
      dispatcher := { conversation.dispatcher with
        cuts := [⟨16, 1000000, .head, none, none, .issued⟩, ⟨17, 1002250, .product, some 2, some 1, .queued⟩] } }
    let t := after (.take .cutter 0 (body [0, 0, 0, 0, 0, 0])) s
    Working s ∧ t.links.cutter.pending = ⟨0x2000, [0x0011, 0x000F, 0x4B0A, 0x000F, 0xDF7A, 0x0021]⟩ ∧
      t.dispatcher.cuts.map Cut.state = [.issued, .issued] := by unfold Working; decide +kernel

theorem test_witness_mask_clamped_and_levels :
    let s := { conversation with links := State.reset.links }
    Working s ∧ (after (.mask .cutter 0 (body [0x0189])) s).links.cutter.pending = ⟨0x0250, [0x0089]⟩ ∧
      (after (.mask .cutter 0 (body [0x0089])) s).links.cutter.pending = ⟨0x0200, [0x0089]⟩ ∧
      (after (.mask .cutter 0 (body [0x0089])) s).links.cutter.flags = 1 := by unfold Working; decide +kernel

theorem test_witness_conditions :
    let issued := withCuts [⟨16, 1000000, .head, none, none, .issued⟩] none (running 0 0)
    conversation.ready = true ∧ issued.ready = false ∧ issued.routeWaiting = false ∧ issued.starved = true ∧
      State.reset.starved = false ∧ (withOrders [⟨620, 2250, none, 2, .a, 40, 9, 31, 9, .opened⟩] issued).starved = true ∧
      (withOrders [⟨620, 2250, none, 2, .a, 40, 9, 31, 8, .opened⟩] issued).starved = false ∧
      { conversation with inReset := true }.attention .cutter = false ∧ conversation.attention .gantry = false := by
  decide +kernel

theorem test_witness_pos :
    Working (running 4294967295 4294967295) ∧
      (after (.pos .gantry 0 (body [])) (running 4294967295 65537)).links.gantry.pending =
        ⟨0x0300, [0xFFFF, 0xFFFF, 0, 1, 1, 1, 1]⟩ := by unfold Working; decide +kernel

theorem test_witness_shifted_out :
    State.reset.inReset = false ∧ WellFormed (.evt .gantry 0 (body [0, 0])) = true ∧
      encode (.evt .gantry 0 (body [0, 0])) = some ⟨.gantry, [0x0100, 0, 0], 0⟩ ∧
      (after (.evt .gantry 0 (body [0, 0])) (withPending .gantry ⟨0x1400, [7]⟩ State.reset)).links.gantry.shifted =
        [0x1400, 7, 0] ∧
      (after (.evt .gantry 0 (body [])) (withPending .gantry ⟨0x1400, [7]⟩ State.reset)).links.gantry.shifted =
        [0x1400] := by decide +kernel

theorem test_witness_wrong_link :
    Working State.reset ∧ ownerOfCode ((0x2000 : Word).extractLsb' 8 8) = some .cutter ∧ Link.cutter ≠ Link.gantry ∧
      decodeTransfer .gantry [0x2000] 0 = .take .gantry 0 (body []) ∧
      (after (decodeTransfer .gantry [0x2000] 0) State.reset).links.gantry.pending = ⟨0x2081, []⟩ := by
  unfold Working; decide +kernel

theorem test_witness_modes_refuse :
    ownerOfCode 0x12 = some .gantry ∧ refusedInSetup 0x12 = true ∧ State.reset.mode = .setup ∧
      (after (.mark .gantry 0 (body [0, 1])) State.reset).links.gantry.pending = ⟨0x1282, []⟩ ∧
      ownerOfCode 0x3B = some .supervisor ∧ refusedInSetup 0x3B = true ∧
      (after (.sampleRequest .supervisor (body [0, 1])) State.reset).links.supervisor.pending = ⟨0x3B82, []⟩ ∧
      ownerOfCode 0x31 = some .supervisor ∧
      (after (decodeTransfer .supervisor [0x3110, 1] 0) (running 0 0)).links.supervisor.pending = ⟨0x3182, []⟩ ∧
      (after (decodeTransfer .supervisor [0x312B, 1, 2] 0) (running 0 0)).links.supervisor.pending = ⟨0x3182, []⟩ ∧
      (after (decodeTransfer .supervisor [0x3111, 1] 0) (running 0 0)).links.supervisor.pending = ⟨0x3183, []⟩ ∧
      (after (decodeTransfer .supervisor [0x312C, 1] 0) (running 0 0)).links.supervisor.pending = ⟨0x3183, []⟩ ∧
      (after (decodeTransfer .supervisor [0x3138, 1] 0) (running 0 0)).links.supervisor.pending = ⟨0x3183, []⟩ ∧
      (after (decodeTransfer .supervisor [0x3137, 15] 0) (running 0 0)).links.supervisor.pending =
        ⟨0x3100, [15]⟩ := by decide +kernel

theorem test_witness_short :
    ownerOfCode 0x10 = some .gantry ∧ fixedWordsOf 0x10 4 = 5 ∧ ownerOfCode 0x02 = none ∧ fixedWordsOf 0x02 0 = 1 ∧
      (after (decodeTransfer .gantry [0x1004, 0, 0, 0, 0] 0) (running 0 0)).links.gantry.pending = ⟨0x108A, []⟩ ∧
      (after (decodeTransfer .gantry [0x0200] 7) (running 0 0)).links.gantry.pending = ⟨0x028A, []⟩ := by decide +kernel

theorem test_decode_rows_that_share_a_code :
    decodeTransfer .supervisor [0x3000] 0 = .modeSetup .supervisor (body []) ∧
      decodeTransfer .supervisor [0x3001] 0 = .modeRun .supervisor (body []) ∧
      decodeTransfer .supervisor [0x3104, 1] 0 = .confClockSelect .supervisor (body [1]) ∧
      decodeTransfer .supervisor [0x3122, 1, 2] 0 = .confLaneExtent .supervisor 0x22 (body [1, 2]) ∧
      decodeTransfer .supervisor [0x394A] 0 = .rcpRead .supervisor 0x4A (body []) ∧
      decodeTransfer .cutter [0x2101, 5, 0] 0 = .doneMissed .cutter (body [5, 0]) := by decide +kernel

theorem test_witness_decode_of_encode :
    WellFormed (.rcpCopy .supervisor (body [])) = true ∧
      encode (.rcpCopy .supervisor (body [])) = some ⟨.supervisor, [0x390A], 0⟩ ∧
      decodeTransfer .supervisor [0x390A] 0 = .rcpCopy .supervisor (body []) := by decide +kernel

/-! ## Configuration (O18) -/

theorem test_witness_conf_ranges :
    Working State.reset ∧ State.reset.mode = .setup ∧
      (after (.confDCommit .supervisor (body [499])) State.reset).links.supervisor.pending = ⟨0x3183, []⟩ ∧
      (after (.confDCommit .supervisor (body [500])) State.reset).conf.dCommit = 500 ∧
      (after (.confDCommit .supervisor (body [20000])) State.reset).conf.dCommit = 20000 ∧
      (after (.confDCommit .supervisor (body [20001])) State.reset).conf.dCommit = 4000 ∧
      (after (.confCmin .supervisor (body [200])) State.reset).conf.cmin = 200 ∧
      (after (.confCmin .supervisor (body [199])) State.reset).conf.cmin = 400 ∧
      (after (.confCmin .supervisor (body [500])) State.reset).conf.cmin = 500 ∧
      (after (.confCmin .supervisor (body [501])) State.reset).conf.cmin = 400 ∧
      (after (.confDCut .supervisor (body [1, 0xD4C0])) State.reset).conf.dCut = 120000 ∧
      (after (.confDCut .supervisor (body [1, 0xD4C1])) State.reset).conf.dCut = 38000 := by unfold Working; decide +kernel

theorem test_witness_lane_extent :
    let s := { State.reset with refs := ⟨State.reset.refs.t.set 5 ⟨20000, 8⟩, State.reset.refs.r⟩ }
    (after (.confLaneExtent .supervisor 0x25 (body [1400, 1690])) s).refs.t[5] = ⟨20000, 0⟩ ∧
      (after (.confLaneExtent .supervisor 0x25 (body [1400, 1690])) s).conf.lanes[5] = ⟨1400, 1690⟩ ∧
      (after (.confLaneExtent .supervisor 0x25 (body [1400, 1700])) s).refs.t[5] = ⟨20000, 8⟩ ∧
      (after (.confLaneExtent .supervisor 0x2B (body [0, 8192])) s).links.supervisor.pending = ⟨0x3183, []⟩ := by decide +kernel

/-- The status of the reply to one CONF write in SETUP. -/
def confStatus (i : Body → Instr) (ws : List Word) : Word :=
  (after (i (body ws)) State.reset).links.supervisor.pending.status

theorem test_witness_conf_bounds_accepted :
    confStatus (.confEncoderScale .supervisor) [1] = 0x3100 ∧ confStatus (.confEncoderScale .supervisor) [65535] = 0x3100 ∧
      confStatus (.confTLate .supervisor) [400] = 0x3100 ∧ confStatus (.confClockSelect .supervisor) [3] = 0x3100 ∧
      confStatus (.confStaleDistance .supervisor) [20000] = 0x3100 ∧ confStatus (.confKu .supervisor) [255] = 0x3100 ∧
      confStatus (.confKd .supervisor) [255] = 0x3100 ∧ confStatus (.confJ .supervisor) [31] = 0x3100 ∧
      confStatus (.confG .supervisor) [63] = 0x3100 ∧ confStatus (.confNetZone .supervisor) [8191, 8191] = 0x3100 ∧
      confStatus (.confCmax .supervisor) [400] = 0x3100 ∧ confStatus (.confCmax .supervisor) [6000] = 0x3100 ∧
      confStatus (.confCullMargin .supervisor) [100] = 0x3100 ∧ confStatus (.confLs .supervisor) [400] = 0x3100 ∧
      confStatus (.confLs .supervisor) [2000] = 0x3100 ∧ confStatus (.confQ .supervisor) [4] = 0x3100 ∧
      confStatus (.confQ .supervisor) [16] = 0x3100 ∧ confStatus (.confTDev .supervisor) [200] = 0x3100 ∧
      confStatus (.confDestination .supervisor 0x37) [15] = 0x3100 ∧
      confStatus (.confDCut .supervisor) [0, 5000] = 0x3100 := by decide +kernel

theorem test_witness_conf_bounds_refused :
    confStatus (.confEncoderScale .supervisor) [0] = 0x3183 ∧ confStatus (.confTLate .supervisor) [401] = 0x3183 ∧
      confStatus (.confClockSelect .supervisor) [4] = 0x3183 ∧
      confStatus (.confStaleDistance .supervisor) [20001] = 0x3183 ∧ confStatus (.confKu .supervisor) [256] = 0x3183 ∧
      confStatus (.confKd .supervisor) [256] = 0x3183 ∧ confStatus (.confJ .supervisor) [32] = 0x3183 ∧
      confStatus (.confG .supervisor) [64] = 0x3183 ∧ confStatus (.confNetZone .supervisor) [0, 8192] = 0x3183 ∧
      confStatus (.confCmax .supervisor) [399] = 0x3183 ∧ confStatus (.confCmax .supervisor) [6001] = 0x3183 ∧
      confStatus (.confCullMargin .supervisor) [101] = 0x3183 ∧ confStatus (.confLs .supervisor) [399] = 0x3183 ∧
      confStatus (.confLs .supervisor) [2001] = 0x3183 ∧ confStatus (.confQ .supervisor) [3] = 0x3183 ∧
      confStatus (.confQ .supervisor) [17] = 0x3183 ∧ confStatus (.confTDev .supervisor) [201] = 0x3183 ∧
      confStatus (.confDestination .supervisor 0x30) [16] = 0x3183 ∧
      confStatus (.confDCut .supervisor) [0, 4999] = 0x3183 := by decide +kernel

/-! ## Intake (O19 to O23) -/

/-- The part of the worked case of section 3.2: 63 entries wait and another is in process. -/
def intakeBusy : State :=
  { running 2104300 2104120 with
    intake := ⟨List.replicate 63 (.mark 0), some (.mark 0), 41007, 12, 63, false⟩ }

/-- The four records of the worked case. -/
def burst : Body :=
  body
    [0x0020, 0x1B56, 0x05B4, 0x0502, 0x3384, 0x0020, 0x1B57, 0x05BE, 0x0E02, 0x3384, 0x0020, 0x1C00, 0x05DC, 0x0502,
      0x0384, 0x0020, 0x1B60, 0x069A, 0x0602, 0x2384]

theorem test_detection_record_layout :
    rawDetection 0x0020 0x1B56 0x25B4 0x1502 0x3384 = ⟨2104150, 1460, .r, 2, 5, .stone, 900, 3⟩ ∧
      (rawDetection 0 0 0 0 0).band = 16 ∧ (rawDetection 0 0 0 0xFFFF 0).kind = .unknown := by decide +kernel

theorem test_det_burst :
    let t := after (.det .gantry 4 burst) intakeBusy
    t.links.gantry.pending = ⟨0x1052, [1]⟩ ∧ t.intake.queue.length = 64 ∧ t.intake.received = 41011 ∧
      t.intake.dropped = 15 ∧ t.intake.highWater = 64 ∧ t.intake.overflow = true ∧ t.links.gantry.flags = 1 ∧
      t.map.spans = [⟨2104160, 2104161, 1⟩, ⟨2104300, 2104315, 1⟩] := by decide +kernel

theorem test_det_burst_with_one_more_place :
    let s := { intakeBusy with intake := { intakeBusy.intake with queue := List.replicate 62 (.mark 0) } }
    let t := after (.det .gantry 4 burst) s
    t.links.gantry.pending = ⟨0x1052, [2]⟩ ∧ t.intake.dropped = 14 ∧ t.map.spans = [⟨2104160, 2104161, 1⟩] := by decide +kernel

theorem test_witness_det :
    Working intakeBusy ∧ intakeBusy.mode ≠ .setup ∧ 5 ≤ burst.data.length ∧ intakeBusy.intake.received ≤ 65535 ∧
      intakeBusy.intake.dropped ≤ 65535 ∧
      (after (.det .gantry 0 burst) intakeBusy).links.gantry.pending = ⟨0x1083, []⟩ ∧
      (after (.det .gantry 13 burst) intakeBusy).links.gantry.pending = ⟨0x1083, []⟩ := by unfold Working; decide +kernel

/-- One detection record at the edges of lane 5, [1400, 1700). -/
def oneRecord (x : Word) (lane : Word) : Body := body [0x0020, 0x1B56, x, lane, 0x3384]

theorem test_witness_det_outcomes :
    let s := running 2104150 0
    Working s ∧ s.intake.queue.length < 64 ∧ (rawDetection 0x0020 0x1B56 0x0578 0x0502 0x3384).xStart = 1400 ∧
      (after (.det .gantry 1 (oneRecord 0x0578 0x0502)) s).intake.queue.length = 1 ∧
      (after (.det .gantry 1 (oneRecord 0x0577 0x0502)) s).intake.queue.length = 0 ∧
      (after (.det .gantry 1 (oneRecord 0x06A3 0x0502)) s).links.gantry.pending = ⟨0x1000, [1]⟩ ∧
      (after (.det .gantry 1 (oneRecord 0x06A4 0x0502)) s).links.gantry.pending = ⟨0x1052, [0]⟩ ∧
      (after (.det .gantry 1 (oneRecord 0x0578 0x0C02)) s).links.gantry.pending = ⟨0x1052, [0]⟩ ∧
      (after (.det .gantry 1 (oneRecord 0x0578 0x0502)) (running 2104149 0)).links.gantry.pending = ⟨0x1050, [1]⟩ := by
  unfold Working; decide +kernel

theorem test_witness_det_full :
    let s := { intakeBusy with intake := { intakeBusy.intake with queue := List.replicate 64 (.mark 0) } }
    Working s ∧ 64 ≤ s.intake.queue.length ∧
      (after (.det .gantry 1 (oneRecord 0x0578 0x0502)) s).map.spans = [⟨2104150, 2104152, 1⟩] := by unfold Working; decide +kernel

theorem test_witness_bkg :
    let t := after (.bkg .gantry 3 (body [0x0514, 0x0013, 0x0514, 0x000C, 0x0001])) (running 0 0)
    t.intake.queue = [.background 3 .r 1300] ∧ t.links.gantry.pending = ⟨0x1152, [1]⟩ ∧ t.intake.received = 2 ∧
      t.intake.dropped = 1 ∧
      (after (.bkg .gantry 1 (body [0x0514, 0x0013])) (running 0 0)).links.gantry.pending = ⟨0x1100, [1]⟩ ∧
      (after (.bkg .gantry 17 (body [0x0514, 0x0013])) (running 0 0)).links.gantry.pending = ⟨0x1183, []⟩ := by decide +kernel

theorem test_witness_bkg_full :
    let s := { intakeBusy with intake := { intakeBusy.intake with queue := List.replicate 63 (.mark 0), received := 65535 } }
    let t := after (.bkg .gantry 2 (body [0x0514, 0x0013, 0x0515, 0x000B])) s
    Working s ∧ s.mode ≠ .setup ∧ s.intake.received ≤ 65535 ∧ t.links.gantry.pending = ⟨0x1152, [1]⟩ ∧
      t.intake.queue.length = 64 ∧ t.intake.received = 1 ∧ t.intake.dropped = 13 ∧ t.intake.overflow = true ∧
      t.links.gantry.flags = 1 ∧ t.map.spans = [] ∧ t.accounts.counts.intakeDrops = 1 := by unfold Working; decide +kernel

theorem test_witness_mark :
    let s := running 2104410 2104120
    Working s ∧ (after (.mark .gantry 0 (body [0x0020, 0x1C50])) s).intake.queue = [.mark 2104400] ∧
      (after (.mark .gantry 0 (body [0x0020, 0x1C50])) s).links.gantry.pending = ⟨0x1200, []⟩ ∧
      (after (.mark .gantry 0 (body [0x0020, 0x1C5B])) s).links.gantry.pending = ⟨0x1250, []⟩ ∧
      (after (.mark .gantry 0 (body [0x0020, 0x1B38])) s).links.gantry.pending = ⟨0x1251, []⟩ := by
  unfold Working; decide +kernel

theorem test_witness_gap :
    let s := running 100 50
    Working s ∧ (after (.gap .gantry 1 (body [0, 60, 0, 60])) s).intake.queue = [.gap 60 60 .camera] ∧
      (after (.gap .gantry 1 (body [0, 60, 0, 60])) s).links.gantry.pending = ⟨0x1300, []⟩ ∧
      (after (.gap .gantry 3 (body [0, 40, 0, 50])) s).links.gantry.pending = ⟨0x1351, []⟩ ∧
      (after (.gap .gantry 1 (body [0, 60, 0, 59])) s).links.gantry.pending = ⟨0x1383, []⟩ ∧
      (after (.gap .gantry 0 (body [0, 60, 0, 60])) s).links.gantry.pending = ⟨0x1383, []⟩ ∧
      (after (.gap .gantry 4 (body [0, 60, 0, 60])) s).links.gantry.pending = ⟨0x1383, []⟩ := by unfold Working; decide +kernel

/-- A part whose intake queue is full. -/
def fullQueue : State := { running 100 50 with intake := ⟨List.replicate 64 (.mark 0), none, 0, 0, 64, false⟩ }

theorem test_witness_full_queue :
    Working fullQueue ∧ 64 ≤ fullQueue.intake.queue.length ∧
      (after (.mark .gantry 0 (body [0, 5])) fullQueue).links.gantry.pending = ⟨0x1284, []⟩ ∧
      (after (.gap .gantry 2 (body [0, 5, 0, 6])) fullQueue).links.gantry.pending = ⟨0x1384, []⟩ := by
  unfold Working; decide +kernel

theorem test_witness_gstat :
    Working intakeBusy ∧ (after (.gstat .gantry 0 (body [])) intakeBusy).links.gantry.pending =
        ⟨0x1400, [63, 3, 63, 41007, 12, 0, 0x0020, 0x1B38, 0]⟩ ∧
      (after (.gstat .gantry 0 (body [])) { intakeBusy with intake := { intakeBusy.intake with queue := [] } }).intake.highWater = 0 := by
  unfold Working; decide +kernel

/-! ## References and the assembler (O24 to O27) -/

/-- Lane 3, channel T, as the worked case of section 3.6 has it. -/
def laneThree (level settle : Nat) : State :=
  { running 0 0 with refs := ⟨State.reset.refs.t.set 3 ⟨level, settle⟩, State.reset.refs.r⟩ }

/-- The reference of lane 3, channel T, after a sample. -/
def sampled (level sample : Nat) : Reference :=
  (after .backgroundEntryComplete (processing (.background 3 .t sample) (laneThree level 8))).refs.t[3]

theorem test_reference_filter :
    sampled 20000 1300 = ⟨20100, 8⟩ ∧ sampled 20100 1000 = ⟨19972, 8⟩ ∧ sampled 20000 1251 = ⟨20002, 8⟩ ∧
      sampled 20000 1250 = ⟨20000, 8⟩ ∧ sampled 20000 1249 = ⟨19999, 8⟩ := by decide +kernel

theorem test_contrast :
    contrastOf ⟨20100, 8⟩ 900 = 18 ∧ contrastOf ⟨19972, 8⟩ 900 = 17 ∧ contrastOf ⟨20000, 8⟩ 900 = 17 ∧
      contrastOf ⟨120, 8⟩ 30 = 90 ∧ contrastOf ⟨20000, 3⟩ 900 = 255 ∧ contrastOf ⟨20050, 8⟩ 800 = 23 := by decide +kernel

theorem test_witness_sample :
    let s := processing (.background 3 .t 4095) (laneThree 65520 7)
    Working s ∧ s.intake.inProcess = some (.background 3 .t 4095) ∧ (s.refs.get 3 .t).level ≤ 65520 ∧
      (after .backgroundEntryComplete s).refs.t[3] = ⟨65520, 8⟩ ∧
      (after .backgroundEntryComplete s).intake.inProcess = none := by unfold Working; decide +kernel

theorem test_witness_entry_take :
    let s := { running 0 0 with intake := ⟨[.mark 4, .mark 5], none, 2, 0, 2, false⟩ }
    Working s ∧ (after .entryTake s).intake.inProcess = some (.mark 4) ∧ (after .entryTake s).intake.queue = [.mark 5] ∧
      (after .entryTake (after .entryTake s)).intake.queue = [.mark 5] := by unfold Working; decide +kernel

/-- The two flaws of the worked case of section 4.2. -/
def bubbleFlaw : OpenFlaw := ⟨500100, 500103, 1200, 1210, 22, .bubble, 40, 44, true, false, false, false⟩
/-- The stone of the worked case. -/
def stoneFlaw : OpenFlaw := ⟨500098, 500101, 1222, 1230, 22, .stone, 37, 36, true, false, false, false⟩
/-- The detection that bridges them; lane 4, channel T is settled at a level that makes its contrast 19. -/
def bridging : Detection := ⟨500104, 1212, 8, 2, 4, .t, .bubble, 878⟩

/-- The part of the worked case of section 4.2. -/
def bridge (flaws : List (Fin 32 × OpenFlaw)) : State :=
  processing (.detection bridging)
    (withOpen flaws
      { running 500410 500090 with refs := ⟨State.reset.refs.t.set 4 ⟨20000, 8⟩, State.reset.refs.r⟩ })

theorem test_bridge_joins :
    let t := after .detectionEntryComplete (bridge [(2, bubbleFlaw), (5, stoneFlaw)])
    (measure (bridge []).refs bridging).contrast = 19 ∧
      t.assembler.openFlaws =
        [⟨5, ⟨500098, 500105, 1200, 1230, 22, .stone, 37, 96, true, false, false, false⟩⟩] := by decide +kernel

theorem test_witness_detection_opens :
    let s := bridge [(0, { bubbleFlaw with xMin := 2000, xMax := 2010 })]
    Working s ∧ s.intake.inProcess = some (.detection bridging) ∧ s.map.w ≤ bridging.row ∧
      (s.assembler.openFlaws.filter fun x => joinTest s.conf bridging x.flaw) = [] ∧ s.assembler.slots[1] = none ∧
      (∀ j : Fin 32, j < 1 → s.assembler.slots[j] ≠ none) ∧
      (after .detectionEntryComplete s).assembler.openFlaws.map Slotted.slot = [0, 1] := by unfold Working; decide +kernel

theorem test_witness_detection_joins_one :
    let s := bridge [(2, bubbleFlaw)]
    (s.assembler.openFlaws.filter fun x => joinTest s.conf bridging x.flaw) = [⟨2, bubbleFlaw⟩] ∧
      (after .detectionEntryComplete s).assembler.openFlaws =
        [⟨2, ⟨500100, 500105, 1200, 1220, 22, .bubble, 40, 60, true, false, false, false⟩⟩] := by decide +kernel

theorem test_witness_detection_joins_two :
    let s := bridge [(2, bubbleFlaw), (5, stoneFlaw)]
    (s.assembler.openFlaws.filter fun x => joinTest s.conf bridging x.flaw) = [⟨2, bubbleFlaw⟩, ⟨5, stoneFlaw⟩] := by
  decide +kernel

theorem test_join_test_edges :
    joinTest Conf.default ⟨500111, 1214, 0, 1, 0, .t, .bubble, 0⟩ bubbleFlaw = true ∧
      joinTest Conf.default ⟨500112, 1214, 0, 1, 0, .t, .bubble, 0⟩ bubbleFlaw = false ∧
      joinTest Conf.default ⟨500111, 1215, 0, 1, 0, .t, .bubble, 0⟩ bubbleFlaw = false ∧
      joinTest Conf.default ⟨500091, 1190, 6, 2, 0, .t, .bubble, 0⟩ bubbleFlaw = true ∧
      joinTest Conf.default ⟨500090, 1190, 6, 2, 0, .t, .bubble, 0⟩ bubbleFlaw = false ∧
      joinTest Conf.default ⟨500091, 1190, 5, 2, 0, .t, .bubble, 0⟩ bubbleFlaw = false := by decide +kernel

/-- The part of the worked case of section 4.5 with a late detection in process. -/
def catchingUp (row band : Nat) : State :=
  let s := running 600500 600000
  processing (.detection ⟨row, 1212, 8, band, 4, .t, .bubble, 878⟩) { s with map := { s.map with eClosed := 562000 } }

theorem test_witness_late :
    Working (catchingUp 599990 4) ∧ (catchingUp 599990 4).map.eClosed ≤ 599993 ∧
      (after .detectionEntryComplete (catchingUp 599990 4)).assembler.openFlaws.map (fun x => x.flaw.late) = [true] ∧
      (after .detectionEntryComplete (catchingUp 599990 4)).accounts.counts.late = 1 ∧
      (after .detectionEntryComplete (catchingUp 599980 4)).assembler.openFlaws = [] ∧
      (after .detectionEntryComplete (catchingUp 599980 4)).map.flaws.map (fun f => (f.number, f.late)) = [(0, true)] ∧
      (after .detectionEntryComplete (catchingUp 561000 3)).accounts.counts.lateDropped = 1 ∧
      (after .detectionEntryComplete (catchingUp 561000 3)).links.gantry.flags = 8 := by unfold Working; decide +kernel

/-- The two flaws of section 4.2 with the watermark past the detection that bridges them. -/
def bridgedLate (flaws : List (Fin 32 × OpenFlaw)) (w : Nat) : State :=
  let s := bridge flaws
  { s with map := { s.map with w := w } }

theorem test_witness_late_joins :
    let s := bridgedLate [(2, bubbleFlaw), (5, stoneFlaw)] 500110
    let t := after .detectionEntryComplete (bridgedLate [(2, bubbleFlaw)] 500110)
    Working s ∧ bridging.row < s.map.w ∧ s.map.eClosed ≤ bridging.row + bridging.band - 1 ∧
      t.assembler.openFlaws.map (fun x => (x.slot, x.flaw.lastRow, x.flaw.late)) = [(2, 500105, true)] ∧
      t.links.gantry.flags = 8 ∧
      (after .detectionEntryComplete s).assembler.openFlaws.map (fun x => (x.slot, x.flaw.kind, x.flaw.late)) =
        [(5, .stone, true)] ∧
      (after .detectionEntryComplete s).accounts.counts.late = 1 := by unfold Working; decide +kernel

theorem test_witness_late_join_closes_what_is_passed :
    let t := after .detectionEntryComplete (bridgedLate [(2, bubbleFlaw), (5, stoneFlaw)] 500114)
    t.assembler.openFlaws = [] ∧ t.map.flaws.map (fun f => (f.firstRow, f.late)) = [(500098, true)] ∧
      (after .detectionEntryComplete (bridgedLate [(2, bubbleFlaw), (5, stoneFlaw)] 500113)).map.flaws = [] := by
  decide +kernel

/-- Thirty-two open flaws, the earliest ending in slots 9 and 17. -/
def belt : State :=
  let late : OpenFlaw := ⟨801220, 801230, 3300, 3310, 20, .bubble, 1, 4, true, false, false, false⟩
  processing (.detection ⟨801240, 1000, 4, 1, 3, .t, .bubble, 500⟩)
    (withOpen
      (((List.finRange 32).map fun i => (i, late)) ++
        [(9, { late with firstRow := 801200, lastRow := 801204, xMin := 2010, xMax := 2013 }),
          (17, { late with firstRow := 801199, lastRow := 801204, xMin := 640, xMax := 642 })])
      (running 801300 801100))

theorem test_full_table :
    let t := after .detectionEntryComplete belt
    t.map.spans = [⟨801200, 801212, 32⟩] ∧ t.links.gantry.flags = 4 ∧ t.accounts.counts.forcedCloses = 1 ∧
      t.map.flaws.map (fun f => (f.firstRow, f.forced)) = [(801200, true)] ∧
      t.assembler.slots[9].map (fun f => f.firstRow) = some 801240 ∧
      t.assembler.slots[17].map (fun f => f.firstRow) = some 801199 := by decide +kernel

theorem test_witness_full_table :
    Working belt ∧ belt.map.w ≤ 801240 ∧ (∀ i : Fin 32, belt.assembler.slots[i] ≠ none) ∧
      (belt.assembler.openFlaws.filter fun y => joinTest belt.conf ⟨801240, 1000, 4, 1, 3, .t, .bubble, 500⟩ y.flaw) = [] ∧
      (∃ x ∈ belt.assembler.openFlaws, x.slot = 9 ∧
        ∀ y ∈ belt.assembler.openFlaws,
          x.flaw.lastRow < y.flaw.lastRow ∨ (x.flaw.lastRow = y.flaw.lastRow ∧ x.slot ≤ y.slot)) := by
  unfold Working; decide +kernel

theorem test_witness_full_table_of_border_and_late :
    let t := after .detectionEntryComplete { belt with conf := { belt.conf with netZone := ⟨3000, 3450⟩ } }
    let late := after .detectionEntryComplete { belt with map := { belt.map with w := 801241 } }
    t.map.spans = [] ∧ t.map.flaws = [] ∧ t.accounts.counts.border = 1 ∧ t.links.gantry.flags = 4 ∧
      late.assembler.slots[9].map (fun f => (f.firstRow, f.late)) = some (801240, true) ∧ late.links.gantry.flags = 12 ∧
      late.accounts.counts.late = 1 := by decide +kernel

/-- The bridged stone of section 4.3 open, with a MARK in process. -/
def marking (m : Nat) : State :=
  processing (.mark m)
    (withOpen [(5, ⟨500098, 500105, 1200, 1230, 22, .stone, 37, 96, true, false, false, false⟩)] (running 500410 500090))

theorem test_witness_mark_sweeps :
    Working (marking 500120) ∧ (marking 500120).intake.inProcess = some (.mark 500120) ∧
      (after .markEntryComplete (marking 500120)).map.w = 500120 ∧
      (after .markEntryComplete (marking 500120)).map.flaws.map
          (fun f => (f.cls, f.size, f.points, f.clipped)) = [(.critical, 31, 81, false)] ∧
      (after .markEntryComplete (marking 500113)).assembler.openFlaws.length = 1 ∧
      (after .markEntryComplete (marking 500114)).assembler.openFlaws.length = 0 := by unfold Working; decide +kernel

theorem test_witness_gap_widens :
    let s := processing (.gap 951801 992500 .camera) (running 993000 951800)
    Working s ∧ s.map.eClosed ≤ 992500 ∧ (after .gapEntryComplete s).map.spans = [⟨951800, 992500, 2⟩] ∧
      (after .gapEntryComplete s).map.w = 992500 ∧
      (after .gapEntryComplete { s with travel := { s.travel with p := 992000 } }).map.w = 992000 := by
  unfold Working; decide +kernel

/-! ## Classification (O28) -/

/-- The entry of a kind in the default recipe. -/
def entryOf (k : FlawKind) : KindEntry := Recipe.default.kinds[k.code]

/-- The class and the points of a kind, a contrast and a size in the default recipe. -/
def judged (k : FlawKind) (contrast size : Nat) : FlawClass × Nat :=
  (classify (entryOf k) contrast size, pointsOf (entryOf k) (classify (entryOf k) contrast size) contrast size)

theorem test_classification_table :
    judged .bubble 18 3 = (.major, 3) ∧ judged .stone 30 2 = (.major, 8) ∧ judged .edgeChip 10 6 = (.critical, 9) ∧
      judged .scratch 40 150 = (.critical, 42) ∧ judged .stain 24 5 = (.minor, 0) ∧ judged .tinSpot 15 20 = (.faint, 0) ∧
      judged .distortion 90 25 = (.faint, 0) ∧ judged .stone 22 31 = (.critical, 81) ∧
      pointsOf ⟨0, 1, 1, 1, 255⟩ .critical 255 65535 = 4095 := by decide +kernel

theorem test_witness_border_and_clip :
    judge ⟨150, 3450⟩ State.reset.recipes { stoneFlaw with xMin := 20, xMax := 149 } = none ∧
      (judge ⟨150, 3450⟩ State.reset.recipes { stoneFlaw with xMin := 20, xMax := 150 }).isSome = true ∧
      (judge ⟨150, 3450⟩ State.reset.recipes { stoneFlaw with xMin := 3451, xMax := 3460 }).isNone = true ∧
      (judge ⟨150, 3450⟩ State.reset.recipes
          { stoneFlaw with firstRow := 712400, lastRow := 712401, xMin := 140, xMax := 170, contrast := 30 }).map
          (fun j => (j.xMin, j.xMax, j.clipped, j.size, j.cls)) = some (150, 170, true, 21, .critical) := by decide +kernel

theorem test_witness_pending_recipe_judges :
    let store : RecipeStore := ⟨Recipe.default, Recipe.default, 255, some 700000⟩
    let f := { bubbleFlaw with firstRow := 700000, lastRow := 700004 }
    (judge ⟨150, 3450⟩ store f).map Judged.generation = some 0 ∧
      (judge ⟨150, 3450⟩ store { f with firstRow := 699999 }).map Judged.generation = some 255 ∧
      (judge ⟨150, 3450⟩ store { f with late := true }).map Judged.generation = some 255 := by decide +kernel

/-! ## The map (O29, O30) -/

/-- A record of the map. -/
def record (number first last xMin xMax : Nat) (k : FlawKind) (c : FlawClass) (contrast points : Nat) : FlawRecord where
  number := number
  firstRow := first
  lastRow := last
  xMin := xMin
  xMax := xMax
  kind := k
  cls := c
  contrast := contrast
  size := 2
  points := points
  area := 4
  generation := 0
  seenT := true
  seenR := false
  forced := false
  late := false
  clipped := false
  unsettled := false

/-- The map of section 5.2, its counter at the wrap. -/
def atWrap (next : Nat) : State :=
  let s := withFlaws
    [record 65535 10 20 300 301 .stain .minor 30 1, record 0 11 20 300 301 .stain .minor 30 1,
      record 1 12 20 300 301 .stain .minor 30 1, record 5 13 20 300 301 .stain .minor 30 1] (running 100 0)
  { s with map := { s.map with nextNumber := next } }

/-- The flaw handed over. -/
def handed (c : FlawClass) : FlawRecord := record 0 15 16 400 401 .bubble c 20 3

theorem test_witness_numbering :
    (atWrap 65534).map.flaws.length ≤ 768 ∧
      (handOver (handed .minor) (atWrap 65534)).map.flaws.map FlawRecord.number = [65535, 0, 1, 5, 65534] ∧
      (handOver (handed .minor) (atWrap 65534)).map.nextNumber = 65535 ∧
      (handOver (handed .minor) (atWrap 65535)).map.flaws.map FlawRecord.number = [65535, 0, 1, 5, 2] ∧
      (handOver (handed .minor) (atWrap 65535)).map.nextNumber = 3 := by decide +kernel

theorem test_flaws_of_one_row_stand_by_number :
    let t := handOver { handed .minor with firstRow := 13 } (atWrap 3)
    t.map.flaws.map FlawRecord.number = [65535, 0, 1, 3, 5] := by decide +kernel

/-- A full map: 767 records of a class and one of another, at the end. -/
def fullMap (c last : FlawClass) : State :=
  let s := withFlaws
    ((List.range 767).map (fun i => record i (1000 + i) (1000 + i) 300 301 .stain c 30 1) ++
      [record 800 2000 2001 300 301 .stain last 30 1]) (running 3000 0)
  { s with map := { s.map with nextNumber := 812 } }

theorem test_witness_full_map_evicts :
    (fullMap .minor .faint).map.flaws.length = 768 ∧
      ((handOver (handed .minor) (fullMap .minor .faint)).map.flaws.map FlawRecord.number).any (· == 800) = false ∧
      (handOver (handed .minor) (fullMap .minor .faint)).map.flaws.length = 768 ∧
      (handOver (handed .minor) (fullMap .minor .faint)).map.nextNumber = 813 ∧
      (handOver (handed .minor) (fullMap .minor .faint)).accounts.counts.faintDropped = 1 ∧
      (handOver (handed .faint) (fullMap .minor .faint)).map.nextNumber = 812 := by decide +kernel

theorem test_witness_full_map_without_faint :
    (fullMap .minor .major).map.flaws.length = 768 ∧
      (handOver (handed .major) (fullMap .minor .major)).map.nextNumber = 812 ∧
      (handOver (handed .major) (fullMap .minor .major)).map.spans = [⟨15, 16, 16⟩] ∧
      (handOver (handed .major) (fullMap .minor .major)).links.supervisor.flags = 16 ∧
      (handOver (handed .major) (fullMap .minor .major)).accounts.counts.mapFull = 1 := by decide +kernel

/-- The seven spans of the worked case of section 5.4. -/
def sevenSpans : List Span :=
  [⟨2300400, 2300410, 1⟩, ⟨2301000, 2301015, 32⟩, ⟨2302000, 2302500, 2⟩, ⟨2303100, 2303102, 1⟩, ⟨2303700, 2303720, 16⟩,
    ⟨2304000, 2304008, 32⟩, ⟨2305500, 2305515, 1⟩]

/-- The part of the worked case with given spans. -/
def spanned (spans : List Span) : State :=
  let s := withSpans spans (running 2310000 2309000)
  { s with map := { s.map with eClosed := 2300000 } }

theorem test_span_joins_and_is_inserted :
    (addSpan 2301016 2301017 .intake (spanned sevenSpans)).map.spans[1]? = some ⟨2301000, 2301017, 33⟩ ∧
      (addSpan 2306000 2306200 .gapLight (spanned sevenSpans)).map.spans =
        sevenSpans ++ [⟨2306000, 2306200, 4⟩] := by decide +kernel

theorem test_witness_span_overflow :
    let s := spanned (sevenSpans ++ [⟨2306000, 2306200, 4⟩])
    s.map.spans.length = 8 ∧
      (addSpan 2303300 2303303 .intake s).map.spans[3]? = some ⟨2303100, 2303303, 1⟩ ∧
      (addSpan 2303300 2303303 .intake s).map.spans.length = 8 ∧
      (addSpan 2303300 2303303 .intake s).links.supervisor.flags = 32 ∧
      (addSpan 2303103 2303699 .mapFull s).map.spans.length = 7 ∧
      (addSpan 2303103 2303699 .mapFull s).map.spans[3]? = some ⟨2303100, 2303720, 17⟩ ∧
      (addSpan 2303103 2303699 .mapFull s).links.supervisor.flags = 0 := by decide +kernel

theorem test_witness_span_ends_are_held :
    (addSpan 4294967290 4294967300 .forced (spanned [])).map.spans = [⟨4294967290, 4294967295, 32⟩] ∧
      (addSpan 4294967296 4294967300 .forced (spanned [])).map.spans = [⟨4294967295, 4294967295, 32⟩] := by decide +kernel

theorem test_witness_span_overflow_at_the_ends :
    let s := spanned (sevenSpans ++ [⟨2306000, 2306200, 4⟩])
    s.map.spans.Pairwise (fun y z => y.last + 1 < z.first) ∧ (∀ y ∈ s.map.spans, y.first ≤ y.last) ∧
      (addSpan 2300000 2300001 .mapFull s).map.spans.head? = some ⟨2300000, 2300410, 17⟩ ∧
      (addSpan 2307000 2307001 .mapFull s).map.spans.getLast? = some ⟨2306000, 2307001, 20⟩ ∧
      (addSpan 2305750 2305764 .mapFull s).map.spans.drop 6 = [⟨2305500, 2305764, 17⟩, ⟨2306000, 2306200, 4⟩] ∧
      (addSpan 2305751 2305765 .mapFull s).map.spans.drop 6 = [⟨2305500, 2305515, 1⟩, ⟨2305751, 2306200, 20⟩] := by
  decide +kernel

theorem test_witness_span_behind :
    (addSpan 2299950 2299999 .forced (spanned sevenSpans)).map.spans = sevenSpans ∧
      (addSpan 2299950 2300000 .forced (spanned sevenSpans)).map.spans.length = 8 := by decide +kernel

/-! ## The planner (O31 to O34) -/

/-- Order 620 of section 7.6. -/
def order620 : Order := ⟨620, 2250, some 1200, 2, .a, 40, 9, 31, 4, .opened⟩

/-- The patterns with the two columns of pattern 2. -/
def patternsOf (i : Fin 8) (columns : List Across) (s : State) : State :=
  { s with production := { s.production with patterns := s.production.patterns.set i columns } }

/-- The columns of pattern 2. -/
def twoColumns : List Across := [⟨150, 1755⟩, ⟨1845, 3450⟩]

/-- The part with order 620 alone, at a travel count and a watermark. -/
def planning (p w : Nat) (o : Order) : State := patternsOf 2 twoColumns (withOrders [o] (running p w))

/-- The stone in the gutter, the bubble and the scratch of the worked case, and the bubble of slot 7 before and after it
is mapped. -/
def scratchCase : State :=
  withOpen [(7, ⟨3001700, 3001703, 600, 603, 18, .bubble, 3, 16, true, false, false, false⟩)]
    (withFlaws
      [record 1410 3000310 3000312 900 903 .bubble .minor 15 2, record 1411 3000950 3000951 1780 1782 .stone .major 30 8,
        record 1412 3001300 3001420 2400 2404 .scratch .critical 40 42] (planning 3034000 3001702 order620))

/-- The same after the gantry has caught up. -/
def scratchMapped : State :=
  withFlaws
    [record 1412 3001300 3001420 2400 2404 .scratch .critical 40 42, record 1413 3001700 3001705 600 603 .bubble .major 18 3]
    (planning 3036000 3034900 order620)

/-- The course of order 620. -/
def course620 : ProductCourse := order620.course

/-- The rows after a commit. -/
def committed (s : State) : List (PieceKind × Nat × Nat × Nat) :=
  (after .commit s).planner.rows.map fun r => (r.kind, r.start, r.stop, r.orderPlates)

theorem test_scratch_leaves_a_short_row :
    committed (deciding 3000000 (.product course620) scratchCase) = [(.short, 3000000, 3001200, 0)] := by decide +kernel

theorem test_scratch_is_culled_then_product :
    committed (deciding 3001200 (.product course620) scratchMapped) = [(.cull, 3001200, 3001736, 0)] ∧
      committed (deciding 3001736 (.product course620) scratchMapped) = [(.product, 3001736, 3003986, 2)] ∧
      (after .commit (deciding 3001736 (.product course620) scratchMapped)).production.orders.map
          (fun o => (o.inFlight, o.need)) = [(6, 3)] ∧
      committed (deciding 3001200 (.product { course620 with grade := .c }) scratchMapped) =
        [(.cull, 3001200, 3001600, 0)] := by decide +kernel

/-- The stalled gantry of section 7.6 under a blind policy. -/
def stalled (policy : BlindPolicy) : State :=
  let s := planning 3044000 3008400 order620
  deciding 3010000 (.product course620)
    { s with recipes := { s.recipes with current := { s.recipes.current with policy := policy } } }

theorem test_stalled_gantry_is_culled :
    committed (stalled .cull) = [(.cull, 3010000, 3011500, 0)] ∧
      (after .commit (stalled .cull)).accounts.counts.blindRows = 1 ∧
      (after .commit (stalled .cull)).links.supervisor.flags = 8 := by decide +kernel

theorem test_cull_row_of_a_product_course_is_flagged :
    let flags := fun s : State => (after .commit s).planner.rows.map fun r => (r.kind, r.forced, r.unverified)
    let swept := deciding 3001200 (.product course620) scratchMapped
    flags (stalled .cull) = [(.cull, true, true)] ∧ flags swept = [(.cull, false, false)] ∧
      flags (withSpans [⟨3001735, 3001735, 1⟩] { swept with recipes := (stalled .pass).recipes }) = [(.cull, false, true)] ∧
      flags (withSpans [⟨3001736, 3001736, 1⟩] { swept with recipes := (stalled .pass).recipes }) = [(.cull, false, false)] ∧
      flags (deciding 3000000 (.product course620) (patternsOf 2 [] scratchCase)) = [(.cull, false, false)] ∧
      flags (deciding 3001000 (.product course620) (patternsOf 2 [] scratchCase)) = [(.cull, true, true)] ∧
      flags (deciding 3001000 .noOrder scratchCase) = [(.cull, false, false)] := by decide +kernel

theorem test_stalled_gantry_is_passed :
    committed (stalled .pass) = [(.product, 3010000, 3012250, 2)] ∧
      ((after .commit (stalled .pass)).planner.rows.map fun r => (r.forced, r.unverified)) = [(true, true)] := by decide +kernel

/-- An armed planner with its deadline raised, a switch and samples. -/
def opening (switch : Option Mode) (samples : List Nat) : State :=
  let s := planning 3034000 3003000 order620
  { s with
    switch := switch
    travel := { s.travel with deadlineRaised := some 3000000 }
    planner := { s.planner with state := .armed, s := 3000000 }
    production := { s.production with samples := samples } }

/-- The course an opening fixes. -/
def opened (s : State) : Option Course := (after .deadlineEvent s).planner.course

theorem test_witness_opening :
    Working (opening none [3000001]) ∧ (opening none []).travel.deadlineRaised = some 3000000 ∧
      (opening none []).planner.state = .armed ∧ opened (opening none [3000001]) = some (.product course620) ∧
      opened (opening none [3000000]) = some (.sample 3000000 true) ∧ opened (opening (some .cull) []) = some .cullMode ∧
      (after .deadlineEvent (opening (some .cull) [])).mode = .cull ∧
      (after .deadlineEvent (opening (some .cull) [])).links.cutter.flags = 128 ∧
      opened (withOrders [] (opening none [])) = some .noOrder := by unfold Working; decide +kernel

theorem test_witness_switch_to_a_starved_run :
    let s := withOrders [{ order620 with delivered := 36 }] (opening (some .run) [])
    Working { s with mode := .cull } ∧ activeOrder s.production.orders = none ∧
      (after .deadlineEvent { s with mode := .cull }).links.supervisor.flags = 0x82 ∧
      (after .deadlineEvent s).links.supervisor.flags = 0x80 ∧
      (after .deadlineEvent { s with mode := .cull }).links.gantry.flags = 0x80 := by unfold Working; decide +kernel

theorem test_witness_active_order :
    activeOrder [{ order620 with state := .closed }, { order620 with delivered := 36 }, { order620 with id := 7 }] =
      some { order620 with id := 7 } := by decide +kernel

theorem test_witness_commit_of_a_cull_row :
    Completes .commit (deciding 3000000 .cullMode scratchCase) ∧
      committed (deciding 3000000 .cullMode scratchCase) = [(.cull, 3000000, 3001500, 0)] ∧
      committed (deciding 3000000 .noOrder scratchCase) = [(.cull, 3000000, 3001500, 0)] := by
  unfold Completes Working; decide +kernel

theorem test_witness_commit_arms_the_compare :
    (after .commit (deciding 3000000 .noOrder (running 3035499 3034000))).travel.deadline = some 3001500 ∧
      (after .commit (deciding 3000000 .noOrder (running 3035500 3034000))).travel.deadlineRaised = some 3001500 := by
  decide +kernel

/-- A decision to cut a sample. -/
def sampling (w : Nat) : State :=
  let s := deciding 3000000 (.sample 2999900 true) (running 3034000 w)
  { s with production := { s.production with samples := [2999900, 3100000] } }

theorem test_witness_commit_of_a_sample :
    Completes .commit (sampling 3000500) ∧ committed (sampling 3000500) = [(.sample, 3000000, 3000500, 0)] ∧
      (after .commit (sampling 3000500)).links.supervisor.flags = 0 ∧
      (after .commit (sampling 3000499)).links.supervisor.flags = 8 ∧
      (after .commit (sampling 3000500)).production.samples = [3100000] := by unfold Completes Working; decide +kernel

/-- A row of a full table. -/
def fullRow (i : Nat) : Row := ⟨i, 1000 * i, 1000 * i + 1000, .cull, none, none, 0, 0, false, false, false⟩

/-- A decision that meets 18 rows. -/
def crowded : State := withRows ((List.range 18).map fullRow) (running 60000 50000)

theorem test_witness_commit_is_held :
    Working (deciding 18000 .cullMode crowded) ∧ 18 ≤ (deciding 18000 .cullMode crowded).planner.rows.length ∧
      (after .commit (deciding 18000 .cullMode crowded)).planner.state = .held := by unfold Working; decide +kernel

theorem test_witness_held_commit :
    let s := withRows ((List.range 17).map fullRow) (deciding 17000 .cullMode (running 60000 50000))
    let held := { s with planner := { s.planner with state := .held } }
    Completes .heldCommit held ∧ (after .heldCommit held).planner.rows.length = 18 := by
  unfold Completes Working; decide +kernel

theorem test_witness_clean_candidate :
    let s := deciding 3001736 (.product course620) scratchMapped
    Completes .commit s ∧ s.planner.course = some (.product course620) ∧ s.production.patterns[course620.pattern] ≠ [] ∧
      rejecters s ⟨3001736, 3003986, s.production.patterns[course620.pattern], course620.grade⟩ = [] ∧
      s.production.order 620 = some order620 := by unfold Completes Working; decide +kernel

theorem test_witness_clean_candidate_of_a_dropped_order :
    let s := deciding 3001736 (.product { course620 with present := false }) scratchMapped
    Completes .commit s ∧ (after .commit s).production.orders = [order620] ∧
      committed s = [(.product, 3001736, 3003986, 0)] := by unfold Completes Working; decide +kernel

theorem test_witness_short_row :
    let s := deciding 3000000 (.product course620) scratchCase
    let found := rejecters s ⟨3000000, 3002250, s.production.patterns[course620.pattern], course620.grade⟩
    Completes .commit s ∧ found = [⟨3001300, 3001420, false⟩, ⟨3001700, 3001703, false⟩, ⟨3001702, 3002249, true⟩] ∧
      (∀ x ∈ found, 3001300 ≤ x.first) ∧ course620.short = some 1200 ∧ 1200 ≤ max 3000000 3001300 - 3000000 ∧
      committed (deciding 3000000 (.product { course620 with short := some 1300 }) scratchCase) =
        [(.short, 3000000, 3001300, 0)] ∧
      committed (deciding 3000000 (.product { course620 with short := some 1301 }) scratchCase) =
        [(.cull, 3000000, 3001500, 0)] := by unfold Completes Working; decide +kernel

theorem test_witness_empty_pattern :
    let s := deciding 3000000 (.product course620) (patternsOf 2 [] scratchCase)
    Completes .commit s ∧ s.production.patterns[course620.pattern] = [] ∧
      committed s = [(.cull, 3000000, 3001500, 0)] ∧ (after .commit s).links.supervisor.flags = 0 := by
  unfold Completes Working; decide +kernel

theorem test_witness_blind_rejecters :
    let s := withSpans [⟨3010500, 3010600, 2⟩] (stalled .cull)
    let spanned := { s with map := { s.map with w := 3020000 } }
    let candidate : Candidate := ⟨3010000, 3012250, twoColumns, .a⟩
    rejecters s candidate = [⟨3010500, 3010600, true⟩, ⟨3010000, 3012249, true⟩] ∧
      rejecters spanned candidate = [⟨3010500, 3010600, true⟩] ∧
      committed { spanned with planner := { spanned.planner with
        course := some (.product { course620 with short := none }) } } = [(.cull, 3010000, 3010631, 0)] ∧
      (after .commit { spanned with planner := { spanned.planner with
        course := some (.product { course620 with short := none }) } }).links.supervisor.flags = 8 ∧
      rejecters { s with recipes := (stalled .pass).recipes } candidate = [] := by decide +kernel

theorem test_witness_known_rejecters :
    let s := deciding 3000000 (.product course620) scratchCase
    Completes .commit s ∧ (after .commit s).planner.rows.length = 1 ∧
      (∃ f ∈ s.map.flaws, (rejectClass course620.grade s.recipes.current.limits.nb).code ≤ f.cls.code) ∧
      (∃ x ∈ s.assembler.openFlaws, ∃ j, judge s.conf.netZone s.recipes x.flaw = some j) := by
  refine ⟨by unfold Completes Working; decide, by decide, by decide,
    ⟨⟨7, ⟨3001700, 3001703, 600, 603, 18, .bubble, 3, 16, true, false, false, false⟩⟩, by decide,
      ⟨600, 603, false, 0, 4, .major, 4⟩, by decide⟩⟩

/-! ## The cutter (O35 to O39) -/

/-- The queue of section 8.4. -/
def missedQueue : List Cut :=
  [⟨401, 5000000, .product, some 2, some 210, .issued⟩, ⟨402, 5002250, .cull, none, some 211, .issued⟩,
    ⟨403, 5003750, .product, some 2, some 212, .queued⟩, ⟨404, 5006000, .product, some 2, some 213, .queued⟩]

/-- Its rows. -/
def missedRows : List Row :=
  [⟨210, 4997750, 5000000, .product, some 620, some 2, 2, 2, false, false, false⟩,
    ⟨211, 5000000, 5002250, .cull, none, none, 0, 0, false, false, false⟩,
    ⟨212, 5002250, 5003750, .product, some 620, some 2, 2, 2, false, false, false⟩,
    ⟨213, 5003750, 5006000, .product, some 620, some 2, 2, 2, false, false, false⟩]

/-- The part of the worked case with some of its cuts and rows gone. -/
def cutting (cuts : List Cut) (rows : List Row) (aLast : Option Nat) (merged : Option Merged) : State :=
  let s := withRows rows (withCuts cuts aLast (planning 5040600 5030000 { order620 with inFlight := 6 }))
  { s with dispatcher := { s.dispatcher with merged := merged } }

/-- Before the first DONE. -/
def missedCase : State := cutting missedQueue missedRows (some 4997748) none

/-- After the DONE MISSED, with cut 403 issued. -/
def afterMiss : State :=
  cutting [⟨403, 5003750, .product, some 2, some 212, .issued⟩, ⟨404, 5006000, .product, some 2, some 213, .queued⟩]
    (missedRows.drop 2) (some 5000003) (some ⟨some 5000003, 1⟩)

theorem test_done_ok_of_401 :
    let t := after (.doneOk .cutter 0 (body [401, 3])) missedCase
    t.grader.queue = [⟨401, .product, some 4997748, 5000003, some 210, some 2⟩] ∧ t.dispatcher.aLast = some 5000003 ∧
      t.dispatcher.cuts.map Cut.seq = [402, 403, 404] ∧ t.travel.expiry = none ∧ t.travel.expiryRaised = [402] ∧
      t.links.cutter.pending = ⟨0x2100, [0x004C, 0x4B43, 1]⟩ := by decide +kernel

theorem test_done_ok_of_403 :
    let t := after (.doneOk .cutter 0 (body [403, 0xFFB8])) afterMiss
    t.grader.queue = [⟨403, .merged, some 5000003, 5003700, none, none⟩] ∧ t.dispatcher.aLast = some 5003700 ∧
      t.dispatcher.merged = none ∧ t.planner.rows.map Row.id = [213] ∧
      t.production.orders.map Order.inFlight = [4] ∧ t.links.cutter.pending.status = 0x2150 := by decide +kernel

theorem test_witness_done_ok :
    Working missedCase ∧ missedCase.grader.queue.length < 4 ∧
      valueAt [401, 3] 0 = 401 ∧ Working afterMiss ∧
      (after (.doneOk .cutter 0 (body [403, 0])) { afterMiss with
        dispatcher := { afterMiss.dispatcher with merged := none, aLast := some 5003750 } }).grader.queue.map Piece.kind =
        [.merged] ∧
      (after (.doneOk .cutter 0 (body [403, 1])) { afterMiss with
        dispatcher := { afterMiss.dispatcher with merged := none, aLast := some 5003750 } }).grader.queue.map Piece.kind =
        [.product] := by unfold Working; decide +kernel

theorem test_witness_done_ok_of_the_head_cut :
    let s := cutting [⟨16, 5000000, .head, none, none, .issued⟩] [] none none
    (after (.doneOk .cutter 0 (body [16, 0])) s).grader.queue = [⟨16, .head, none, 5000000, none, none⟩] ∧
      (after (.doneOk .cutter 0 (body [401, 0])) (cutting missedQueue missedRows none none)).grader.queue =
        [⟨401, .head, some 0, 5000000, none, none⟩] ∧
      (after (.doneOk .cutter 0 (body [401, 0])) (cutting missedQueue missedRows none none)).planner.rows.map Row.id =
        [211, 212, 213] := by decide +kernel

/-- Before the DONE MISSED. -/
def beforeMiss : State := cutting (missedQueue.drop 1) (missedRows.drop 1) (some 5000003) none

theorem test_witness_done_missed :
    Working beforeMiss ∧ beforeMiss.planner.rows.find? (fun r => r.id == 211) = some (missedRows[1]) ∧
      (let t := after (.doneMissed .cutter (body [402, 0])) beforeMiss;
        t.dispatcher.merged = some ⟨some 5000003, 1⟩ ∧ t.planner.rows.map Row.id = [212, 213] ∧
          t.dispatcher.missed = 1 ∧ t.accounts.counts.missed = 1 ∧ t.travel.expiry = some ⟨403, 5003750⟩ ∧
          t.links.cutter.flags &&& 2 = 0 ∧ t.links.cutter.pending = ⟨0x2100, [0, 0, 0]⟩) := by unfold Working; decide +kernel

/-- The cutter stall of section 8.4 with an expiry raised. -/
def stall : State :=
  let s := cutting
    [⟨410, 5100000, .product, some 2, some 210, .issued⟩, ⟨411, 5101500, .cull, none, some 211, .issued⟩]
    [⟨210, 5098500, 5100000, .product, some 620, some 2, 2, 2, false, false, false⟩,
      ⟨211, 5100000, 5101500, .cull, none, none, 0, 0, false, false, false⟩] (some 5098500) none
  { s with travel := { s.travel with p := 5138230, expiryRaised := [410] } }

theorem test_witness_expiry :
    Working stall ∧ stall.travel.expiryRaised = [410] ∧
      (let t := after .expiry stall;
        t.dispatcher.merged = some ⟨some 5098500, 1⟩ ∧ t.dispatcher.expired = 1 ∧ t.links.cutter.flags = 2 ∧
          t.travel.expiry = some ⟨411, 5101500⟩ ∧ t.travel.expiryRaised = [] ∧
          t.production.orders.map Order.inFlight = [4]) := by unfold Working; decide +kernel

/-- The returning cutter of section 8.4: two QUEUED cuts behind P, and one ahead. -/
def returning (p : Nat) : State :=
  let s := cutting
    [⟨412, 5102000, .cull, none, some 210, .queued⟩, ⟨413, 5103500, .cull, none, some 211, .queued⟩]
    [⟨210, 5100000, 5102000, .cull, none, none, 0, 0, false, false, false⟩,
      ⟨211, 5102000, 5103500, .cull, none, none, 0, 0, false, false, false⟩] (some 5098500) (some ⟨some 5098500, 2⟩)
  { s with travel := { s.travel with p := p } }

theorem test_take_expires_what_has_passed :
    (after (.take .cutter 0 (body [])) (returning 5140001)).dispatcher.merged = some ⟨some 5098500, 3⟩ ∧
      (after (.take .cutter 0 (body [])) (returning 5140001)).dispatcher.cuts.map (fun c => (c.seq, c.state)) =
        [(413, .issued)] ∧
      (after (.take .cutter 0 (body [])) (returning 5140001)).dispatcher.expired = 1 := by decide +kernel

theorem test_witness_take_is_an_expiry_first :
    let s := returning 5140001
    let t := after .expiry { s with travel := { s.travel with expiryRaised := [412] } }
    Working s ∧ s.dispatcher.cuts.head?.map (fun c => (c.seq, c.target, c.state)) = some (412, 5102000, .queued) ∧
      5102000 + s.conf.dCut < s.travel.p ∧ t.dispatcher.cuts.map Cut.seq = [413] ∧
      after (.take .cutter 0 (body [])) s = after (.take .cutter 0 (body [])) t := by unfold Working; decide +kernel

theorem test_witness_lost_head_cut :
    let s := cutting [⟨16, 5000000, .head, none, none, .issued⟩, ⟨17, 5002250, .cull, none, some 211, .queued⟩]
      (missedRows.drop 1) none none
    let t := after (.doneMissed .cutter (body [16, 0])) s
    Working s ∧ t.dispatcher.merged = some ⟨none, 0⟩ ∧ t.dispatcher.cuts.map Cut.seq = [17] ∧
      t.planner.rows = s.planner.rows ∧ t.dispatcher.missed = 1 ∧ t.travel.expiryRaised = [17] := by
  unfold Working; decide +kernel

theorem test_witness_removed_rows :
    removeRow 212 (missedRows.drop 1) =
        [missedRows[1], { missedRows[2] with left := true }, missedRows[3]] ∧
      removeRow 211 [missedRows[1], { missedRows[2] with left := true }, missedRows[3]] = [missedRows[3]] := by
  decide +kernel

theorem test_witness_take :
    Working (returning 5140000) ∧
      (after (.take .cutter 0 (body [])) (returning 5140000)).dispatcher.cuts.map (fun c => (c.seq, c.state)) =
        [(412, .issued), (413, .queued)] ∧
      (after (.take .cutter 0 (body [])) missedCase).links.cutter.pending = ⟨0x2086, []⟩ ∧
      (after (.take .cutter 0 (body [])) (running 0 0)).links.cutter.pending = ⟨0x2085, []⟩ := by unfold Working; decide +kernel

theorem test_witness_done_checks :
    (after (.doneOk .cutter 2 (body [401, 3])) missedCase).links.cutter.pending = ⟨0x2183, []⟩ ∧
      (after (.doneOk .cutter 0 (body [400, 3])) missedCase).links.cutter.pending = ⟨0x2189, []⟩ ∧
      (after (.doneMissed .cutter (body [402, 3])) missedCase).links.cutter.pending = ⟨0x2187, []⟩ ∧
      (after (.doneOk .cutter 0 (body [412, 0])) (returning 5140000)).links.cutter.pending = ⟨0x2187, []⟩ ∧
      (after (.doneOk .cutter 0 (body [401, 3]))
          { missedCase with
            grader := { missedCase.grader with
              queue := List.replicate 4 ⟨1, .cull, none, 5, none, none⟩ } }).links.cutter.pending = ⟨0x2186, []⟩ := by decide +kernel

/-- A routing list of nine entries. -/
def routed : State :=
  let s := running 0 0
  { s with dispatcher := { s.dispatcher with routing := List.replicate 9 ⟨512, .product, 1, 4, some .b, 7306⟩ } }

theorem test_witness_route :
    Working routed ∧
      (after (.route .cutter 8 (body [])) routed).dispatcher.routing.length = 1 ∧
      (after (.route .cutter 1 (body [])) routed).links.cutter.pending = ⟨0x2200, [1, 512, 0x2411, 7306]⟩ ∧
      (after (.route .cutter 0 (body [])) routed).links.cutter.pending = ⟨0x2283, []⟩ ∧
      (after (.route .cutter 9 (body [])) routed).links.cutter.pending = ⟨0x2283, []⟩ ∧
      (after (.route .cutter 1 (body [])) (running 0 0)).links.cutter.pending = ⟨0x2285, []⟩ := by unfold Working; decide +kernel

theorem test_witness_cstat :
    (after (.cstat .cutter 0 (body [])) afterMiss).links.cutter.pending =
      ⟨0x2300, [2, 1, 1, 403, 0x004C, 0x4B43, 1, 1, 1, 0, 0, 0, 0]⟩ := by decide +kernel

/-! ## The grader (O40 to O43) -/

/-- The PRODUCT piece of section 9 with the copy made at its taking. -/
def piece315 : Closing where
  piece := ⟨512, .product, some 3001738, 3003988, some 315, some 2⟩
  order := some 620
  k := 2
  orderPlates := 2
  unverified := false
  forced := false
  columns := twoColumns
  netZone := ⟨150, 3450⟩
  cleared := false

/-- Row 315. -/
def row315 : Row := ⟨315, 3001736, 3003986, .product, some 620, some 2, 2, 2, false, false, false⟩

/-- The part of the worked case before the close. -/
def grading (c : Closing) : State :=
  let s := closing c
    (withRows [row315]
      (withFlaws
        [record 1422 3002500 3002501 2500 2501 .stone .major 30 8, record 1420 3002800 3002801 900 901 .bubble .minor 15 2,
          record 1421 3003976 3003977 1200 1201 .bubble .minor 25 3]
        (planning 3045000 3044000 { order620 with inFlight := 6 })))
  { s with
    grader := { s.grader with nextPlate := 7305 }
    accounts := { s.accounts with productRem := 9000, totalRem := 6000 } }

theorem test_two_column_piece :
    let t := after .platePieceClose (grading piece315)
    t.grader.log.map (fun e => (e.id, e.column, e.grade, e.dest)) = [(7305, 0, .a, 9), (7306, 1, .b, 4)] ∧
      t.grader.log.map (fun e => (e.sum, e.density, e.more)) = [(6, 1, 0), (8, 2, 0)] ∧
      t.grader.log.map PlateEntry.flaws =
        [[⟨1421, .bubble, .minor, 4, 2238, 1050⟩, ⟨1420, .bubble, .minor, 2, 1062, 750⟩], [⟨1422, .stone, .major, 8, 762, 655⟩]] ∧
      t.dispatcher.routing = [⟨512, .product, 0, 9, some .a, 7305⟩, ⟨512, .product, 1, 4, some .b, 7306⟩] ∧
      t.grader.nextPlate = 7307 := by decide +kernel

theorem test_two_column_piece_accounts :
    let t := after .platePieceClose (grading piece315)
    t.production.orders.map (fun o => (o.delivered, o.inFlight, o.need)) = [(32, 4, 4)] ∧ t.planner.rows = [] ∧
      t.map.eClosed = 3003988 ∧ t.map.flaws = [] ∧ t.accounts.counts.productArea = 362 ∧ t.accounts.productRem = 250 ∧
      t.accounts.counts.totalArea = 743 ∧ t.accounts.totalRem = 1000 ∧
      t.accounts.counts.byGrade.toList = [1, 1, 0, 0] ∧ t.accounts.counts.byDest.toList = [1, 0, 1, 0, 0, 0] := by decide +kernel

theorem test_line_clear_while_a_piece_is_graded :
    let t := after .platePieceClose (grading { piece315 with cleared := true })
    t.production.orders.map (fun o => (o.delivered, o.inFlight)) = [(31, 6)] ∧
      t.grader.log.map (fun e => (e.dest, e.surplus, e.order)) = [(1, true, some 620), (2, true, some 620)] ∧
      t.planner.rows = [row315] := by decide +kernel

theorem test_witness_plate_piece :
    Working (grading piece315) ∧ (grading piece315).grader.closing = some piece315 ∧
      (grading piece315).grader.log.length + 2 ≤ 64 ∧ (grading piece315).dispatcher.routing.length + 2 ≤ 32 ∧
      (grading piece315).grader.nextPlate + 2 ≤ 65535 ∧
      (after .platePieceClose (grading { piece315 with
          piece := { piece315.piece with kind := .sample } })).grader.log.map (fun e => (e.width, e.sample, e.dest)) =
        [(3300, true, 7)] := by unfold Working; decide +kernel

/-- A cull piece with a row. -/
def cullPiece (start : Option Nat) : Closing :=
  { piece315 with
    piece := ⟨513, .cull, start, 1501, some 315, none⟩
    order := none
    k := 0
    orderPlates := 0
    columns := [] }

theorem test_witness_cull_piece :
    Working (grading (cullPiece (some 0))) ∧
      (let t := after .cullPieceClose (grading (cullPiece (some 0)));
        t.dispatcher.routing = [⟨513, .cull, 0, 0, none, 0⟩] ∧ t.accounts.counts.cullLength = 1501 ∧
          t.map.eClosed = 1501 ∧ t.planner.rows = [] ∧ t.map.flaws.length = 3) ∧
      (after .cullPieceClose (grading (cullPiece none))).accounts.counts.cullLength = 0 ∧
      (after .cullPieceClose (grading (cullPiece (some 1502)))).accounts.counts.cullLength = 0 := by unfold Working; decide +kernel

theorem test_witness_cull_piece_area_and_lists :
    let s := grading (cullPiece (some 0))
    let full := { s with dispatcher := { s.dispatcher with routing := List.replicate 32 ⟨1, .cull, 0, 0, none, 0⟩ } }
    (after .cullPieceClose s).accounts.counts.totalArea = 495 ∧ (after .cullPieceClose s).accounts.totalRem = 9300 ∧
      (after .cullPieceClose s).links.cutter.flags = 8 ∧
      (after .cullPieceClose full).dispatcher.routing.map RouteEntry.seq = List.replicate 31 1 ++ [513] ∧
      (after .cullPieceClose full).dispatcher.routeLost = 1 ∧ (after .cullPieceClose full).links.cutter.flags = 16 := by
  decide +kernel

theorem test_witness_piece_take :
    let s := { withRows [row315] (planning 0 0 order620) with
      grader := { State.reset.grader with queue := [piece315.piece, ⟨513, .cull, none, 9, none, none⟩] } }
    Working s ∧ s.grader.closing = none ∧ (after .pieceTake s).grader.closing = some piece315 ∧
      (after .pieceTake s).grader.queue.length = 1 := by unfold Working; decide +kernel

theorem test_witness_grades :
    gradeOf ⟨2, 12, 2, 25, 24⟩ 1 0 0 false = .x ∧ gradeOf ⟨2, 12, 2, 25, 24⟩ 0 0 2 false = .a ∧
      gradeOf ⟨2, 12, 2, 25, 24⟩ 0 0 3 false = .b ∧ gradeOf ⟨2, 12, 2, 25, 24⟩ 0 0 0 true = .b ∧
      gradeOf ⟨2, 12, 2, 25, 24⟩ 0 2 12 false = .b ∧ gradeOf ⟨2, 12, 2, 25, 24⟩ 0 3 12 false = .c ∧
      gradeOf ⟨2, 12, 2, 25, 24⟩ 0 2 13 false = .c ∧ density 6 3611250 = 1 ∧ density 14 3611250 = 3 := by decide +kernel

theorem test_witness_order_fills :
    let s := planning 0 0 { order620 with delivered := 39, inFlight := 1 }
    s.production.order 620 = some { order620 with delivered := 39, inFlight := 1 } ∧
      (accountPlate 620 true s).production.orders.map (fun o => (o.delivered, o.inFlight, o.state)) = [(40, 0, .filled)] ∧
      (accountPlate 620 true s).links.supervisor.flags = 1 ∧
      (accountPlate 620 false s).production.orders.map (fun o => (o.delivered, o.inFlight, o.state)) =
        [(39, 0, .opened)] := by decide +kernel

theorem test_flaw_on_both_sides_of_a_cut :
    let f := record 9 4002248 4002251 700 703 .tinSpot .minor 20 3
    let first : Blank := ⟨0, .order, 4000000, 4002250, ⟨150, 1755⟩⟩
    let second : Blank := ⟨0, .order, 4002250, 4004500, ⟨150, 1755⟩⟩
    flawsOf first [f] = [f] ∧ flawsOf second [f] = [f] ∧ edgeDistance first f = 0 ∧ edgeDistance second f = 0 ∧
      platePoints ⟨2, 12, 2, 25, 24⟩ first f = 4 ∧ flawsOf { first with stop := 4002247 } [f] = [] := by decide +kernel

/-! ## Modes (O44 to O46) -/

/-- The part of the worked case of section 11.2, in SETUP. -/
def entering (p eClosed : Nat) : State :=
  { State.reset with
    travel := { State.reset.travel with p := p }
    map := { State.reset.map with w := p, eClosed := eClosed } }

theorem test_mode_entry :
    let t := after (.modeRun .supervisor (body [])) (entering 6000000 0)
    t.mode = .run ∧ t.planner.s = 5966000 ∧ t.dispatcher.cuts = [⟨0, 5966000, .head, none, none, .queued⟩] ∧
      t.travel.deadlineRaised = some 5966000 ∧ t.travel.deadline = none ∧ t.links.supervisor.flags = 0x82 ∧
      t.links.gantry.flags = 0x80 ∧ t.links.cutter.flags = 0x81 ∧ t.links.supervisor.pending = ⟨0x3000, [1, 1]⟩ := by
  decide +kernel

theorem test_mode_entry_of_the_morning :
    let s := { entering 34000 0 with map := { State.reset.map with w := 0 } }
    let t := after (.modeRun .supervisor (body [])) s
    t.planner.s = 0 ∧ t.links.gantry.flags = 0x82 ∧ t.links.staleArmed = false := by decide +kernel

theorem test_witness_mode_entry :
    Working (entering 6000000 5970000) ∧ (entering 6000000 5970000).mode = .setup ∧
      (entering 6000000 5970000).dispatcher.cuts = [] ∧
      (after (.modeCull .supervisor (body [])) (entering 6000000 5970000)).travel.deadline = some 5970000 ∧
      (after (.modeRun .supervisor (body []))
          { entering 5 0 with conf := { Conf.default with q := 13, netZone := ⟨5, 5⟩ } }).links.supervisor.pending =
        ⟨0x3083, [10, 0]⟩ ∧
      (after (.modeRun .supervisor (body []))
          { entering 5 0 with
            conf := { Conf.default with lanes := Conf.defaultLanes.set 11 ⟨5, 5⟩ } }).links.supervisor.pending =
        ⟨0x3083, [4, 0x0800]⟩ := by unfold Working; decide +kernel

theorem test_witness_expiry_follows_the_head :
    ExpiryFollowsHead [] (after (.modeRun .supervisor (body [])) (entering 6000000 5970000)) := by
  refine ⟨fun h => absurd h (by decide +kernel), fun c rest h => ?_⟩
  have h₀ : (after (.modeRun .supervisor (body [])) (entering 6000000 5970000)).dispatcher.cuts =
      [⟨0, 5970000, .head, none, none, .queued⟩] := by decide +kernel
  obtain ⟨rfl, rfl⟩ := List.cons.inj (h₀.symm.trans h)
  exact ⟨fun h => absurd h (by decide +kernel), fun _ => by decide +kernel⟩

theorem test_witness_mode_requests :
    Working (running 0 0) ∧ (running 0 0).mode ≠ .setup ∧
      (after (.modeCull .supervisor (body [])) (running 0 0)).switch = some .cull ∧
      (after (.modeCull .supervisor (body [])) (running 0 0)).links.supervisor.pending = ⟨0x3000, [1, 2]⟩ ∧
      (after (.modeRun .supervisor (body [])) { running 0 0 with switch := some .cull }).switch = none ∧
      (after (.modeRead .supervisor 3 (body [])) (running 0 0)).links.supervisor.pending = ⟨0x3000, [1, 1]⟩ ∧
      (after (.modeRead .supervisor 4 (body [])) (running 0 0)).links.supervisor.pending = ⟨0x3083, []⟩ ∧
      (after (.modeSetup .supervisor (body [])) State.reset).links.supervisor.pending = ⟨0x3000, [0, 0]⟩ := by
  unfold Working; decide +kernel

theorem test_witness_line_clear :
    let t := after (.modeSetup .supervisor (body [])) scratchCase
    Working scratchCase ∧ t.mode = .setup ∧ t.map.w = 3034000 ∧ t.map.eClosed = 3034000 ∧ t.map.flaws = [] ∧
      t.assembler.openFlaws = [] ∧ t.production.orders.map Order.inFlight = [0] ∧ t.links.cutter.flags = 0x84 ∧
      t.links.gantry.flags = 0x80 := by unfold Working; decide +kernel

theorem test_restart :
    let t := after (.restart .supervisor 0 (body [])) scratchCase
    t.production.orders = [] ∧ t.links.cutter.flags = 0 ∧ t.links.supervisor.pending = ⟨0, []⟩ ∧ t.mode = .setup ∧
      t.map.nextNumber = 0 := by decide +kernel

/-! ## Accounts (O47) -/

theorem test_witness_time :
    Working State.reset ∧
      (after (.time .supervisor 0 (body [1, 0x517F])) State.reset).travel.seconds = 86399 ∧
      (after (.time .supervisor 0 (body [1, 0x5180])) State.reset).links.supervisor.pending = ⟨0x3283, []⟩ := by
  unfold Working; decide +kernel

/-- The words of a shift start table. -/
def shifts (b e : Word) : Body := body [1, 0, 21600, b, 0, e, 0, 1, 0x517F, 0, 0, 21600]

theorem test_witness_shifts :
    (∀ i : Fin 4, valueAt (shifts 1 21601).data (3 * i) ≤ 1 ∧ value32At (shifts 1 21601).data (3 * i + 1) ≤ 86399) ∧
      (∀ i j : Fin 4, i < j → valueAt (shifts 1 21601).data (3 * i) = 1 → valueAt (shifts 1 21601).data (3 * j) = 1 →
        value32At (shifts 1 21601).data (3 * i + 1) ≠ value32At (shifts 1 21601).data (3 * j + 1)) ∧
      (after (.shiftsWrite .supervisor (shifts 1 21601)) State.reset).accounts.table.toList =
        [⟨true, 21600⟩, ⟨true, 21601⟩, ⟨false, 86399⟩, ⟨false, 21600⟩] ∧
      (after (.shiftsWrite .supervisor (shifts 1 21600)) State.reset).links.supervisor.pending = ⟨0x338B, []⟩ ∧
      (after (.shiftsWrite .supervisor (shifts 2 21600)) State.reset).links.supervisor.pending = ⟨0x3383, []⟩ := by decide +kernel

theorem test_shift_table_words :
    (after (.shiftsRead .supervisor 1 (body [])) (atSix false 86399)).links.supervisor.pending =
        ⟨0x3300, [0, 0, 21600, 1, 1, 0x517F, 0, 0, 0, 0, 0, 0]⟩ ∧
      (after (.shiftsRead .supervisor 2 (body [])) State.reset).links.supervisor.pending = ⟨0x3383, []⟩ := by decide +kernel

theorem test_report_words :
    let t := after (.shiftClose .supervisor 0 (body [])) (atSix false 21600)
    (after (.report .supervisor 0 (body [])) t).links.supervisor.pending.data =
      [214, 0, 21599, 4, 0, 27940, 0, 859, 3, 0, 0, 0, 0, 0, 0, 0, 0, 0, 0, 0, 0, 2, 0x52F6, 2, 0xC60F, 837] ++
        List.replicate 23 0 := by decide +kernel

theorem test_witness_shift_close_and_report :
    let t := after (.shiftClose .supervisor 0 (body [])) (atSix false 21600)
    Working (atSix false 21600) ∧ t.links.supervisor.pending = ⟨0x3E00, [214, 0, 21599, 837]⟩ ∧
      (after (.report .supervisor 0 (body [])) t).links.supervisor.pending.data.take 4 = [214, 0, 21599, 4] ∧
      (after (.report .supervisor 1 (body [])) t).links.supervisor.pending = ⟨0x3F88, []⟩ ∧
      (after (.report .supervisor 4 (body [])) t).links.supervisor.pending = ⟨0x3F83, []⟩ := by unfold Working; decide +kernel

/-! ## Production tables (O48 to O50) -/

theorem test_witness_pattern_write :
    let b := body [2, 150, 1800, 1800, 3450]
    Working State.reset ∧ columnsOf 2 (b.data.drop 1) = [⟨150, 1800⟩, ⟨1800, 3450⟩] ∧
      (after (.patWrite .supervisor 7 b) State.reset).production.patterns[7] = [⟨150, 1800⟩, ⟨1800, 3450⟩] ∧
      (after (.patWrite .supervisor 7 (body [2, 150, 1800, 1799, 3450])) State.reset).links.supervisor.pending =
        ⟨0x3483, []⟩ ∧
      (after (.patWrite .supervisor 7 (body [1, 150, 249])) State.reset).links.supervisor.pending = ⟨0x3483, []⟩ ∧
      (after (.patWrite .supervisor 7 (body [1, 150, 250])) State.reset).links.supervisor.pending =
        ⟨0x3400, [1, 150, 250]⟩ ∧
      (after (.patRead .supervisor 0x80 (body [])) State.reset).links.supervisor.pending = ⟨0x3400, [1, 150, 3450]⟩ := by
  unfold Working; decide +kernel

theorem test_witness_pattern_refusals :
    let named := planning 0 0 order620
    (after (.patWrite .supervisor 8 (body [1, 150, 250])) State.reset).links.supervisor.pending = ⟨0x3483, []⟩ ∧
      (after (.patWrite .supervisor 7 (body (5 :: List.replicate 10 200))) State.reset).links.supervisor.pending =
        ⟨0x3483, []⟩ ∧
      (after (.patWrite .supervisor 2 (body [0])) named).links.supervisor.pending = ⟨0x3486, []⟩ ∧
      (after (.patWrite .supervisor 3 (body [0])) named).links.supervisor.pending = ⟨0x3400, [0]⟩ ∧
      (after (.patWrite .supervisor 7 (body [1, 149, 250])) State.reset).links.supervisor.pending = ⟨0x3483, []⟩ ∧
      (after (.patRead .supervisor 0x88 (body [])) State.reset).links.supervisor.pending = ⟨0x3483, []⟩ := by decide +kernel

theorem test_witness_pattern_in_use :
    (after (.patWrite .supervisor 2 (body [1, 150, 250])) (withRows [row315] (planning 0 0 order620))).links.supervisor.pending =
        ⟨0x3486, []⟩ ∧
      (after (.patWrite .supervisor 2 (body [1, 150, 250]))
          (withRows [{ row315 with left := true }] (planning 0 0 order620))).links.supervisor.pending =
        ⟨0x3400, [1, 150, 250]⟩ := by decide +kernel

/-- The words of an order of pattern 0. -/
def orderWordsOf (lp short grade stacker : Word) : Body := body [801, lp, short, 0, grade, 6, stacker]

theorem test_witness_order_add :
    let s := withOrders [order620] State.reset
    Working s ∧ s.production.orders.length < 16 ∧
      (after (.ordAdd .supervisor 0 (orderWordsOf 400 0 1 15)) s).production.orders.map Order.id = [620, 801] ∧
      (after (.ordAdd .supervisor 1 (orderWordsOf 7000 6999 3 0)) s).production.orders.map Order.id = [801, 620] ∧
      (after (.ordAdd .supervisor 0 (orderWordsOf 399 0 1 15)) s).links.supervisor.pending = ⟨0x3583, []⟩ ∧
      (after (.ordAdd .supervisor 0 (orderWordsOf 7000 7000 1 15)) s).links.supervisor.pending = ⟨0x3583, []⟩ ∧
      (after (.ordAdd .supervisor 0 (orderWordsOf 7001 0 1 15)) s).links.supervisor.pending = ⟨0x3583, []⟩ ∧
      (after (.ordAdd .supervisor 0 (orderWordsOf 400 0 4 15)) s).links.supervisor.pending = ⟨0x3583, []⟩ ∧
      (after (.ordAdd .supervisor 0 (orderWordsOf 400 0 1 16)) s).links.supervisor.pending = ⟨0x3583, []⟩ := by
  unfold Working; decide +kernel

theorem test_witness_order_add_refusals :
    let full := withOrders ((List.range 16).map fun i => { order620 with id := 1 + i }) State.reset
    (after (.ordAdd .supervisor 0 (orderWordsOf 400 0 1 15)) full).links.supervisor.pending = ⟨0x3584, []⟩ ∧
      (after (.ordAdd .supervisor 0 (orderWordsOf 400 0 1 15))
          (withOrders [{ order620 with id := 801 }] State.reset)).links.supervisor.pending = ⟨0x358B, []⟩ ∧
      (after (.ordAdd .supervisor 2 (orderWordsOf 400 0 1 15)) State.reset).links.supervisor.pending = ⟨0x3583, []⟩ ∧
      (after (.ordAdd .supervisor 0 (body [801, 400, 0, 1, 1, 6, 15])) State.reset).links.supervisor.pending =
        ⟨0x3583, []⟩ := by decide +kernel

theorem test_order_words :
    let s := withOrders [{ order620 with id := 1 }, order620] (running 0 0)
    (after (.ordRead .supervisor 0 (body [620])) s).links.supervisor.pending =
        ⟨0x3800, [620, 2250, 1200, 2, 1, 40, 31, 4, 5, 9, 0, 1, 2, 0, 0]⟩ ∧
      (after (.ordRead .supervisor 1 (body [1])) s).links.supervisor.pending.data =
        [620, 2250, 1200, 2, 1, 40, 31, 4, 5, 9, 0, 1, 2, 0, 0] ∧
      (after (.ordRead .supervisor 2 (body [1])) s).links.supervisor.pending = ⟨0x3883, []⟩ ∧
      (after (.ordRead .supervisor 1 (body [2])) s).links.supervisor.pending = ⟨0x3888, []⟩ := by decide +kernel

theorem test_witness_order_close_drop_read :
    let s := withOrders [{ order620 with id := 1 }, order620] (running 0 0)
    Working s ∧ (after (.ordClose .supervisor 0 (body [620])) s).production.orders.map (fun o => (o.wanted, o.state)) =
        [(40, .opened), (35, .closed)] ∧
      (after (.ordClose .supervisor 0 (body [620])) s).links.supervisor.pending = ⟨0x3600, [35, 31]⟩ ∧
      (after (.ordDrop .supervisor 0 (body [620])) s).links.supervisor.pending = ⟨0x3786, []⟩ ∧
      (after (.ordDrop .supervisor 0 (body [620]))
          (withOrders [{ order620 with state := .closed, inFlight := 0 }] s)).production.orders = [] ∧
      (after (.ordRead .supervisor 0 (body [9])) s).links.supervisor.pending = ⟨0x3888, []⟩ ∧
      (after (.ordRead .supervisor 1 (body [1])) s).links.supervisor.pending.status = 0x3800 := by unfold Working; decide +kernel

theorem test_witness_order_close_starves :
    (after (.ordClose .supervisor 0 (body [620])) (withOrders [order620] (running 0 0))).links.supervisor.flags = 2 := by decide +kernel

/-- A part in RUN with a sample list and a plan start. -/
def samplesFrom (start : Nat) (samples : List Nat) : State :=
  let s := running 0 0
  { s with planner := { s.planner with s := start }, production := { s.production with samples := samples } }

theorem test_witness_samples :
    Working (samplesFrom 100 [1000, 2000]) ∧
      (after (.sampleRequest .supervisor (body [0, 1500])) (samplesFrom 100 [1000, 2000])).production.samples =
        [1000, 1500, 2000] ∧
      (after (.sampleRequest .supervisor (body [0, 1499])) (samplesFrom 100 [1000, 2000])).links.supervisor.pending =
        ⟨0x3B00, [0, 1000, 2]⟩ ∧
      (after (.sampleRequest .supervisor (body [0, 99])) (samplesFrom 100 [1000, 2000])).links.supervisor.pending =
        ⟨0x3B50, [0, 100, 3]⟩ ∧
      (after (.sampleRequest .supervisor (body [0, 5000])) (samplesFrom 100 [1000, 2000, 3000, 4000])).links.supervisor.pending =
        ⟨0x3B84, []⟩ ∧
      (after (.sampleCancel .supervisor (body [0, 1000])) (samplesFrom 100 [1000, 2000])).production.samples = [2000] ∧
      (after (.sampleCancel .supervisor (body [0, 1001])) (samplesFrom 100 [1000, 2000])).links.supervisor.pending =
        ⟨0x3B88, []⟩ ∧
      (after (.sampleRead .supervisor 2 (body [])) (samplesFrom 100 [1000, 2000])).links.supervisor.pending =
        ⟨0x3B00, [2, 0, 1000, 0, 2000]⟩ := by unfold Working; decide +kernel

theorem test_witness_sample_argument :
    (after (.sampleRead .supervisor 3 (body [])) (samplesFrom 100 [1000])).links.supervisor.pending = ⟨0x3B83, []⟩ := by
  decide +kernel

/-! ## Recipes (O51) -/

theorem test_witness_recipe_writes :
    Working State.reset ∧ State.reset.recipes.armedAt = none ∧
      (after (.rcpWriteKind .supervisor 7 (body [255, 1, 1, 1, 255])) State.reset).recipes.pending.kinds[7] =
        ⟨255, 1, 1, 1, 255⟩ ∧
      (after (.rcpWriteKind .supervisor 0 (body [256, 1, 1, 1, 255])) State.reset).links.supervisor.pending = ⟨0x3983, []⟩ ∧
      (after (.rcpWriteLimits .supervisor (body [2, 2, 15, 255, 64])) State.reset).recipes.pending.limits =
        ⟨2, 2, 15, 255, 64⟩ ∧
      (after (.rcpWriteLimits .supervisor (body [3, 2, 15, 255, 64])) State.reset).links.supervisor.pending = ⟨0x3983, []⟩ ∧
      (after (.rcpWritePolicy .supervisor (body [1])) State.reset).recipes.pending.policy = .pass ∧
      (after (.rcpRead .supervisor 0x80 (body [])) State.reset).links.supervisor.pending = ⟨0x3900, [12, 1, 3, 8, 40]⟩ := by
  unfold Working; decide +kernel

theorem test_recipe_switch_held_back :
    let s := withOpen [(11, ⟨699980, 699990, 2000, 2002, 40, .scratch, 1, 30, true, false, false, false⟩)]
      (running 700500 699500)
    let armed := after (.rcpArm .supervisor 0 (body [0x000A, 0xAE60])) s
    armed.recipes.armedAt = some 700000 ∧ armed.links.supervisor.pending = ⟨0x3A00, [0x000A, 0xAE60, 0]⟩ ∧
      (after (.rcpArm .supervisor 0 (body [0x000A, 0xAA78])) s).links.supervisor.pending =
        ⟨0x3A50, [0x000A, 0xAC6C, 1]⟩ ∧
      (after .markEntryComplete (processing (.mark 699990) armed)).recipes.armedAt = some 700000 ∧
      (after .markEntryComplete (processing (.mark 700400) armed)).recipes.generation = 1 ∧
      (after .markEntryComplete (processing (.mark 700400) armed)).links.supervisor.flags = 64 := by decide +kernel

theorem test_witness_recipe_arm :
    Working (running 0 0) ∧ (after (.rcpArm .supervisor 0 (body [0, 5])) State.reset).recipes.generation = 1 ∧
      (after (.rcpArm .supervisor 0 (body [0, 1])) (running 5 0)).recipes.armedAt = some 1 ∧
      (after (.rcpArm .supervisor 0 (body [0, 0])) (running 5 0)).recipes.generation = 1 ∧
      (let armed := after (.rcpArm .supervisor 0 (body [0, 1])) (running 5 0);
        (after (.rcpCopy .supervisor (body [])) armed).links.supervisor.pending = ⟨0x3986, []⟩ ∧
          (after (.rcpDisarm .supervisor (body [])) armed).recipes.armedAt = none) := by unfold Working; decide +kernel

theorem test_witness_armed_recipe_is_busy :
    let armed := after (.rcpArm .supervisor 0 (body [0, 1])) (running 5 0)
    let answer := fun i : Instr => (after i armed).links.supervisor.pending
    Working armed ∧ armed.recipes.armedAt ≠ none ∧
      answer (.rcpWriteKind .supervisor 7 (body [1, 1, 1, 1, 1])) = ⟨0x3986, []⟩ ∧
      answer (.rcpWriteLimits .supervisor (body [2, 2, 15, 255, 64])) = ⟨0x3986, []⟩ ∧
      answer (.rcpWritePolicy .supervisor (body [1])) = ⟨0x3986, []⟩ ∧
      answer (.rcpArm .supervisor 0 (body [0, 2])) = ⟨0x3A86, []⟩ ∧
      answer (.rcpArm .supervisor 2 (body [0, 2])) = ⟨0x3A83, []⟩ ∧
      answer (.rcpRead .supervisor 0x4A (body [])) = ⟨0x3900, [0, 1, 0, 1]⟩ := by unfold Working; decide +kernel

theorem test_witness_recipe_reads :
    let answer := fun n : Byte => (after (.rcpRead .supervisor n (body [])) State.reset).links.supervisor.pending
    answer 0x47 = answer 0x87 ∧ answer 0x48 = ⟨0x3900, [2, 12, 2, 25, 24]⟩ ∧ answer 0x88 = answer 0x48 ∧
      answer 0x49 = ⟨0x3900, [0]⟩ ∧ answer 0x89 = ⟨0x3900, [0]⟩ ∧ answer 0x8A = ⟨0x3900, [0, 0, 0, 0]⟩ ∧
      answer 0x4B = ⟨0x3983, []⟩ ∧ answer 0x7F = ⟨0x3983, []⟩ ∧ answer 0x8B = ⟨0x3983, []⟩ ∧ answer 0xC0 = ⟨0x3983, []⟩ ∧
      (after (.rcpWriteKind .supervisor 11 (body [])) State.reset).links.supervisor.pending = ⟨0x3983, []⟩ ∧
      (after (.rcpWritePolicy .supervisor (body [2])) State.reset).links.supervisor.pending = ⟨0x3983, []⟩ := by decide +kernel

/-! ## Reads (O52) -/

theorem test_witness_flaw_reads :
    Working (atWrap 3) ∧
      (after (.flaw .supervisor 0 (body [65535])) (atWrap 3)).links.supervisor.pending.status = 0x3C00 ∧
      (after (.flaw .supervisor 1 (body [65535])) (atWrap 3)).links.supervisor.pending.data.head? = some 0 ∧
      (after (.flaw .supervisor 1 (body [5])) (atWrap 3)).links.supervisor.pending = ⟨0x3C85, []⟩ ∧
      (after (.flaw .supervisor 0 (body [2])) (atWrap 3)).links.supervisor.pending = ⟨0x3C88, []⟩ ∧
      (after (.flaw .supervisor 2 (body [9])) (atWrap 3)).links.supervisor.pending.data.head? = some 65535 := by
  unfold Working; decide +kernel

theorem test_witness_plate_reads :
    let t := after .platePieceClose (grading piece315)
    (after (.plate .supervisor 0 (body [7305])) t).links.supervisor.pending.data.head? = some 7305 ∧
      (after (.plate .supervisor 1 (body [0])) t).links.supervisor.pending.data.head? = some 7306 ∧
      (after (.plate .supervisor 0 (body [7304])) t).links.supervisor.pending = ⟨0x3D89, []⟩ ∧
      (after (.plate .supervisor 0 (body [7307])) t).links.supervisor.pending = ⟨0x3D88, []⟩ ∧
      (after (.plate .supervisor 0 (body [0])) t).links.supervisor.pending = ⟨0x3D88, []⟩ ∧
      (after (.plate .supervisor 1 (body [0])) State.reset).links.supervisor.pending = ⟨0x3D85, []⟩ := by decide +kernel

theorem test_witness_window :
    Working (spanned sevenSpans) ∧
      (after (.window .supervisor 0 (body [])) (spanned sevenSpans)).links.supervisor.pending.status = 0x4000 := by
  unfold Working; decide +kernel

theorem test_flaw_and_window_words :
    (after (.flaw .supervisor 0 (body [1412])) scratchMapped).links.supervisor.pending =
        ⟨0x3C00, [1412, 0x002D, 0xCBD4, 0x002D, 0xCC4C, 2400, 2404, 3, 3, 40, 2, 42, 4, 0, 1, 0]⟩ ∧
      (after (.flaw .supervisor 3 (body [1412])) scratchMapped).links.supervisor.pending = ⟨0x3C83, []⟩ ∧
      (after (.window .supervisor 0 (body [])) (withSpans [⟨10, 20, 1⟩] (running 70000 60))).links.supervisor.pending =
        ⟨0x4000, [0, 0, 0, 60, 1, 4464, 0xFFFF, 0xFFFF, 0, 0, 0, 0, 0, 1, 0, 1, 0, 10, 0, 20, 1]⟩ := by decide +kernel

theorem test_plate_words :
    (after (.plate .supervisor 0 (body [7306]))
        (after .platePieceClose (grading piece315))).links.supervisor.pending =
      ⟨0x3D00,
        [7306, 315, 620, 1, 1, 0x002D, 0xCD8A, 0x002D, 0xD654, 1605, 2, 4, 0, 0, 0, 1, 0, 8, 2, 1, 1, 0, 1422, 1, 2, 8, 762,
          655]⟩ ∧
      (after (.plate .supervisor 2 (body [7306])) (grading piece315)).links.supervisor.pending = ⟨0x3D83, []⟩ := by decide +kernel

/-! ## Laws (O53 to O60): a state that meets each, and a step from it -/

/-- A running part with a MARK in process, a flaw, a span, a row and its cut. -/
def lawful : State :=
  processing (.mark 90)
    (withSpans [⟨10, 20, 1⟩]
      (withFlaws [record 3 15 16 400 401 .bubble .minor 20 3]
        (withRows [⟨1, 0, 400, .cull, none, none, 0, 0, false, false, false⟩]
          (withCuts [⟨7, 400, .cull, none, some 1, .issued⟩] (some 0) (running 100 50)))))

/-- The same with the plan start at the end of its row. -/
def lawfulPlan : State := { lawful with planner := { lawful.planner with s := 400 } }

theorem test_witness_watermark_law :
    WatermarkLaw lawful ∧ step lawful = .next lawful := ⟨by unfold WatermarkLaw; decide, rfl⟩

theorem test_witness_laws :
    CapacityLaw lawful ∧ FlawMapLaw lawful ∧ BlindSpanLaw lawful ∧ PlateCountLaw lawful ∧ SwitchLaw lawful ∧
      SetupLaw lawful := by
  refine ⟨by unfold CapacityLaw; decide, by unfold FlawMapLaw; decide, ?_, by unfold PlateCountLaw Counts.platesAgree; decide,
    fun m h => absurd h (by simp [lawful, processing, withSpans, withFlaws, withRows, withCuts, running, State.reset]),
    fun h => absurd h (by decide)⟩
  refine ⟨fun e h => ?_, by decide, by decide, by decide, by decide⟩
  simp [Intake.entries, lawful, processing, withSpans, withFlaws, withRows, withCuts, running, State.reset] at h
  subst h
  trivial

theorem test_witness_plan_law : PlanLaw lawfulPlan ∧ (after .markEntryComplete lawfulPlan).map.w = 90 := by
  refine ⟨⟨fun m h => ?_, fun h => absurd h (by decide), by unfold ConfigLaw; decide, ?_, fun c h => ?_,
    ⟨by trivial, by decide, ?_, ?_⟩, by unfold CutLaw; decide⟩, by decide⟩
  · exact absurd (show (none : Option Mode) = some m from h) (by simp)
  · unfold OrderLengthLaw; decide
  · exact absurd (show (none : Option Course) = some (.product c) from h) (by simp)
  · intro r h; simp [lawfulPlan, lawful, processing, withSpans, withFlaws, withRows, withCuts, running] at h; subst h; rfl
  · intro r h; simp [lawfulPlan, lawful, processing, withSpans, withFlaws, withRows, withCuts, running] at h; subst h; rfl

end Sys2Proof.Tests
end

section
/-! The answer of POS (R15). -/

namespace Sys2Proof.Proofs.Travel

open Sys2Proof Sys2Proof.Machine

/-- A quantity that is no greater than the greatest coordinate (R3) is sent exactly. -/
theorem words32_of_le {n : Nat} (h : n ≤ 4294967295) :
    words32 n = [BitVec.ofNat 16 (n / 65536), BitVec.ofNat 16 n] :=
  if_pos h

/-- Shifting out a response changes nothing that POS reports. -/
@[simp] theorem posWords_shiftOut (l : Link) (n : Nat) (s : State) : posWords (shiftOut l n s) = posWords s := by
  simp [posWords]

/-- POS has no fixed data word and belongs to every link in every mode, so a working part always answers it. -/
theorem exec_pos_of_working {s : State} (h : Working s) (l : Link) (arg : Byte) (b : Body) :
    exec (.pos l arg b) s = .next (transferred l b 0x03 (Reply.done (posWords s)) s) := by
  have haccepted : (commonEntry 0x03 0).refusal l b s.mode = none := by simp [refusal_common]
  exact command_answer h haccepted (by simp [answer])

/-- The mode is sent as its code (R15, R181). -/
theorem word_modeCode (m : Mode) :
    word m.code =
      match m with
      | .setup => 0
      | .run => 1
      | .cull => 2 := by
  cases m <;> rfl

/-- The seven words, where P and W are coordinates. -/
theorem posWords_of_le {s : State} (hp : s.travel.p ≤ 4294967295) (hw : s.map.w ≤ 4294967295) :
    posWords s =
      [BitVec.ofNat 16 (s.travel.p / 65536), BitVec.ofNat 16 s.travel.p, word s.travel.remainder,
        BitVec.ofNat 16 (s.map.w / 65536), BitVec.ofNat 16 s.map.w, word s.mode.code, flagWord s.travel.stopped] := by
  rw [posWords, words32_of_le hp, words32_of_le hw]
  rfl

/-- Settles O12: POS is always accepted, and its seven words are those of R15. -/
theorem posReportsTravel : Obligations.PosReportsTravel := by
  intro s l arg b hworking hp hw
  rw [exec_pos_of_working hworking, posWords_of_le hp hw, word_modeCode]
  rfl

end Sys2Proof.Proofs.Travel
end

section
/-! What a command meets on a link it does not belong to (R24). -/

namespace Sys2Proof.Proofs.Links

open Sys2Proof Sys2Proof.Machine

/-- Only the codes of the acceptance table belong to a link of their own (R22, R24). -/
theorem codeDefined_of_ownerOfCode {code : Byte} {owner : Link} (h : ownerOfCode code = some owner) :
    codeDefined code = true := by
  unfold ownerOfCode at h
  split at h
  case isTrue hgantry => simp [codeDefined, hgantry]
  case isFalse =>
    split at h
    case isTrue hcutter => simp [codeDefined, hcutter]
    case isFalse =>
      split at h
      case isTrue hsupervisor => simp [codeDefined, hsupervisor]
      case isFalse => cases h

/-- The link is the first check of R18 after the code's own: on another link than the owner's, neither the mode nor the
count of words is looked at. -/
theorem refusal_of_owner_ne {a : Acceptance} {l owner : Link} (howner : a.owner = some owner) (hne : owner ≠ l)
    (b : Body) (m : Mode) : a.refusal l b m = some .link := by
  have hbelongs : a.belongs l = false := by simpa [Acceptance.belongs, howner] using hne
  simp [Acceptance.refusal, hbelongs]

/-- The link a command's entry names is the one its code belongs to. -/
theorem owner_of_entryOf {a : Acceptance} {l : Link} {code arg : Byte} {b : Body} {i : Instr}
    (h : EntryOf a l code arg b i) : a.owner = ownerOfCode code := by
  obtain ⟨-, howner, -⟩ := h
  exact howner

/-- Settles O14: a code with an owner has an entry of the acceptance table, the entry's first check fails on another link,
and a command that a check of its entry refuses changes nothing but the response. -/
theorem wrongLinkReachesNoBlock : Obligations.WrongLinkReachesNoBlock := by
  intro s l owner w data tail hworking howner hne
  obtain ⟨a, hentry⟩ :=
    exists_entryOf l (w.extractLsb' 8 8) (w.extractLsb' 0 8) ⟨data, tail⟩ (codeDefined_of_ownerOfCode howner)
  exact hentry.refused hworking (refusal_of_owner_ne ((owner_of_entryOf hentry).trans howner) hne _ _)

end Sys2Proof.Proofs.Links
end

section
/-!
What a step can do, said once. `Change` lists every effect that a command has on the part, each with what the command has
checked before it; a step is a chain of them (`step_changes`), so a law of the state that every effect keeps is kept by
every step (`step_keeps`).
-/

namespace Sys2Proof.Proofs.Steps

open Sys2Proof Sys2Proof.Machine

/-- One effect of a command on the part, guarded by the checks the command makes before it. -/
inductive Change (s : State) : State → Prop
  | frame (links : Links) (inReset : Bool) (pending : List Instr) :
      Change s { s with links := links, inReset := inReset, pending := pending }
  | reset : Change s (resetAsserted s)
  | pulse : Change s { s with travel := s.travel.pulse s.conf }
  | tick : Change s { s with travel := s.travel.tick }
  | stop : Change s (setStopped s)
  | second : Change s (stepTime s)
  | setTime (seconds : Nat) : Change s { s with travel := { s.travel with seconds := seconds, ms := 0 } }
  | shiftTable (table : Vector ShiftStart 4) : Change s { s with accounts := { s.accounts with table := table } }
  | closeShift (time cause : Nat) : Change s (closeShift time cause s)
  | opening : s.planner.state = .armed → Change s (openDecision s)
  | commit (c : Course) : s.planner.course = some c → s.planner.hasSlot = true → Change s (commitRow c s)
  | hold (c : Course) : s.planner.course = some c →
      Change s { s with planner := { s.planner with state := .held } }
  | expiryTaken (later : List Nat) : Change s { s with travel := { s.travel with expiryRaised := later } }
  | expire (c : Cut) (rest : List Cut) : s.dispatcher.cuts = c :: rest → Change s (expireHead c rest s)
  | miss (c : Cut) (rest : List Cut) : s.dispatcher.cuts = c :: rest → Change s (missHead c rest s)
  | execute (c : Cut) (rest : List Cut) (a : Nat) : s.dispatcher.cuts = c :: rest → s.grader.full = false →
      Change s (executeHead c rest a s)
  | issue : s.dispatcher.issuedCount < 2 → Change s { s with dispatcher := s.dispatcher.issue }
  | routesRead (n : Nat) :
      Change s { s with dispatcher := { s.dispatcher with routing := s.dispatcher.routing.drop n } }
  | enter (e : Entry) : s.mode ≠ .setup → s.intake.full = false → e.covers → e.markPosition ≤ s.travel.p →
      Change s { s with intake := s.intake.receive.push e }
  | discard : Change s (countDrop { s with intake := s.intake.receive })
  | dropForFull : Change s (dropForFull { s with intake := s.intake.receive })
  | span (first last : Nat) (cause : SpanCause) : s.mode ≠ .setup → first ≤ last → Change s (addSpan first last cause s)
  | statusRead : Change s { s with intake := s.intake.afterRead }
  | entryTaken : Change s { s with intake := s.intake.takeOldest }
  | background (lane : Fin 12) (channel : Channel) (level : Nat) :
      s.intake.inProcess = some (.background lane channel level) →
      Change s (completeBackground lane channel level (finishEntry s))
  | detection (d : Detection) : s.intake.inProcess = some (.detection d) → Change s (completeDetection d (finishEntry s))
  | mark (m : Nat) : s.intake.inProcess = some (.mark m) → Change s (completeMark m (finishEntry s))
  | gap (first last : Nat) (cause : GapCause) : s.intake.inProcess = some (.gap first last cause) →
      Change s (completeGap first last cause (finishEntry s))
  | pieceTaken (p : Piece) (rest : List Piece) : s.grader.closing = none → s.grader.queue = p :: rest →
      Change s { s with grader := { s.grader with queue := rest, closing := some (closingOf p s) } }
  | cullet (c : Closing) : s.grader.closing = some c → Change s (closeCull c s)
  | plates (c : Closing) : s.grader.closing = some c → Change s (closePlates c s)
  | switch (m : Mode) : s.mode ≠ .setup → m ≠ .setup → Change s (requestSwitch m s)
  | entry (m : Mode) : s.mode = .setup → m ≠ .setup → Change s (enterMode m s)
  | lineClear : Change s (returnToSetup s)
  | restart : Change s (restart s)
  | pattern (i : Fin 8) (columns : List Across) : Change s (setPattern i columns s)
  | orderAdded (ws : List Word) (o : Order) (orders : List Order) : orderOf ws s = some o →
      s.production.orders.length < 16 → orders = s.production.orders ++ [o] ∨ orders = o :: s.production.orders →
      Change s (setOrders orders s)
  | orderClosed (id : Nat) : Change s { s with production := s.production.updateOrder id Order.close }
  | orderRemoved (id : Nat) : Change s (removeOrder id s)
  | sampleAdded (m : Nat) : s.mode ≠ .setup → s.production.samples.length < 4 → Change s (insertSample m s)
  | sampleCancelled (m : Nat) :
      Change s
        { s with
          production := { s.production with samples := s.production.samples.erase m }
          planner := s.planner.sampleLeft m }
  | recipes (r : RecipeStore) : Change s { s with recipes := r }
  | conf (item : ConfItem) (ws : List Word) : item.accepts s.mode = true → item.allowed ws s = true →
      Change s (item.write ws s)

/-- A chain of effects. -/
inductive Changes (s : State) : State → Prop
  | refl : Changes s s
  | tail {u t : State} : Changes s u → Change u t → Changes s t

/-! ## Chains of the shared operations -/

theorem Change.chain {s t : State} (h : Change s t) : Changes s t := .tail .refl h

theorem Changes.trans {s u t : State} (hsu : Changes s u) (hut : Changes u t) : Changes s t := by
  induction hut with
  | refl => exact hsu
  | tail _ hchange ih => exact .tail ih hchange

/-- What differs in the links, the internal reset and the queue of commands alone is one effect. -/
theorem changes_of_frame {s t : State}
    (h : { t with links := s.links, inReset := s.inReset, pending := s.pending } = s) : Changes s t := by
  have : t = { s with links := t.links, inReset := t.inReset, pending := t.pending } := by rw [← h]
  rw [this]
  exact (Change.frame _ _ _).chain

theorem changes_of_links {s t : State} (h : { t with links := s.links } = s) : Changes s t := by
  refine changes_of_frame ?_
  have hr : t.inReset = s.inReset := (congrArg State.inReset h :)
  have hp : t.pending = s.pending := (congrArg State.pending h :)
  rw [← hr, ← hp]
  exact h

theorem changes_setLink (l : Link) (x : LinkState) (s : State) : Changes s (s.setLink l x) := changes_of_links rfl

theorem changes_raise (e : Event) (s : State) : Changes s (raise e s) := changes_of_links rfl

theorem changes_setRisenLevels (old : State) {s t : State} (h : Changes s t) : Changes s (setRisenLevels old t) :=
  h.trans (changes_of_links (setRisenLevels_frame old t))

theorem changes_asEvent {f : State → State} {s : State} (h : Changes s (f s)) : Changes s (asEvent f s) :=
  changes_setRisenLevels s h

/-! ## Settling -/

theorem changes_settleStop (s : State) : Changes s (settleStop s) := by
  unfold settleStop
  split
  · exact Change.stop.chain
  · exact .refl

theorem changes_settleStep (s : State) : Changes s (settleStep s) := by
  unfold settleStep
  split
  · exact Change.second.chain
  · exact .refl

theorem changes_settleHeld (s : State) : Changes s (settleHeld s) := by
  unfold settleHeld makeHeldCommit
  split
  case isFalse => exact .refl
  case isTrue hdue =>
    have hslot : s.planner.hasSlot = true := by simp [State.heldIsDue] at hdue; exact hdue.2
    split
    next c hc => exact changes_asEvent (Change.commit c hc hslot).chain
    next => exact .refl

theorem changes_settle (s : State) : Changes s (settle s) :=
  ((changes_settleStop s).trans (changes_settleStep _)).trans (changes_settleHeld _)

/-! ## Steps of a block and transfers -/

theorem changes_blockStep {f : State → State} (hf : ∀ u, Changes u (f u)) {s t : State} (h : blockStep f s = .next t) :
    Changes s t := by
  unfold blockStep at h
  obtain rfl := Host.Outcome.next.inj h
  split
  · exact .refl
  · exact (changes_settle s).trans (changes_asEvent (hf _))

theorem changes_dueStep {f : State → State} (hf : ∀ u, Changes u (f u)) {s t : State} (h : dueStep f s = .next t) :
    Changes s t := by
  unfold dueStep at h
  obtain rfl := Host.Outcome.next.inj h
  split
  · exact .refl
  · exact hf s

theorem changes_transfer {l : Link} {b : Body} {act : State → State × Response} (hact : ∀ u, Changes u (act u).1)
    {s t : State} (h : transfer l b act s = .next t) : Changes s t := by
  unfold transfer at h
  obtain rfl := Host.Outcome.next.inj h
  split
  · exact changes_setLink _ _ s
  · refine .trans ?_ (changes_setLink _ _ _)
    exact changes_setRisenLevels _ (((changes_settle s).trans (changes_setLink _ _ _)).trans (hact _))

/-- An effect of a command comes after its check of the mode. -/
theorem changes_command {a : Acceptance} {l : Link} {b : Body} {act : State → State × Reply}
    (hact : ∀ u : State, a.accepts u.mode = true → Changes u (act u).1) {s t : State}
    (h : command a l b act s = .next t) : Changes s t := by
  refine changes_transfer (fun u => ?_) h
  unfold respond
  split
  · exact .refl
  next hr =>
    refine hact u ?_
    unfold Acceptance.refusal at hr
    split at hr
    · cases hr
    · split at hr
      · cases hr
      · rename_i hmode; simpa using hmode

/-- A command that only replies. -/
theorem changes_answer {a : Acceptance} {l : Link} {b : Body} {r : State → Reply} {s t : State}
    (h : command a l b (answer r) s = .next t) : Changes s t :=
  changes_command (fun _ _ => .refl) h

theorem ne_setup_of_notSetup {m : Mode} (h : notSetup m = true) : m ≠ .setup := by simpa [notSetup] using h

/-! ## Steps of the planner -/

theorem changes_receiveDeadline (s : State) : Changes s (receiveDeadline s) := by
  unfold receiveDeadline
  split
  · split
    next h => exact (Change.opening h).chain
    next => exact .refl
  · exact .refl

theorem changes_completeOpenDecision (s : State) : Changes s (completeOpenDecision s) := by
  unfold completeOpenDecision completeDecision
  split
  next c hc =>
    split
    · split
      next hslot => exact (Change.commit c hc hslot).chain
      next => exact (Change.hold c hc).chain
    · exact .refl
  next => exact .refl

/-! ## The dispatcher -/

theorem changes_receiveExpiry (s : State) : Changes s (receiveExpiry s) := by
  unfold receiveExpiry
  split
  next seq later _ =>
    have htaken : Changes s { s with travel := { s.travel with expiryRaised := later } } := (Change.expiryTaken later).chain
    simp only
    split
    next c rest hcuts =>
      split
      · exact htaken.trans
          (Change.expire (s := { s with travel := { s.travel with expiryRaised := later } }) c rest hcuts).chain
      · exact htaken
    next => exact htaken
  next => exact .refl

theorem changes_expirePassed (fuel : Nat) (s : State) : Changes s (expirePassed fuel s) := by
  induction fuel generalizing s with
  | zero => exact .refl
  | succ fuel ih =>
    unfold expirePassed
    split
    next c rest hcuts =>
      split
      · exact ((changes_asEvent (Change.expire c rest hcuts).chain).trans (changes_settleHeld _)).trans (ih _)
      · exact .refl
    next => exact .refl

theorem changes_takeCut (s : State) : Changes s (takeCut s).1 := by
  refine (changes_expirePassed (s.dispatcher.cuts.length + 2) s).trans ?_
  unfold takeCut issueCut
  split
  · exact .refl
  · split
    · exact .refl
    next h => exact (Change.issue (by simpa [Config.issuedMax] using h)).chain

theorem changes_doneCut (arg : Byte) (ws : List Word) (s : State) : Changes s (doneCut arg ws s).1 := by
  unfold doneCut doneSeq doneHead
  split
  · split
    next c rest hcuts =>
      split
      · split
        · split
          · exact .refl
          next hfull =>
            split
            · exact (Change.execute c rest _ hcuts (by simpa using hfull)).chain
            · exact (Change.miss c rest hcuts).chain
        · exact .refl
      · split <;> exact .refl
    next => exact .refl
  · exact .refl

theorem changes_readRoutes (n : Nat) (s : State) : Changes s (readRoutes n s).1 := by
  unfold readRoutes
  simp only
  split
  · exact .refl
  · split
    · exact .refl
    · exact (Change.routesRead n).chain

/-! ## The gantry -/

theorem one_le_band (w0 w1 w2 w3 w4 : Word) : 1 ≤ (rawDetection w0 w1 w2 w3 w4).band := by
  rw [rawDetection_eq]
  simp only
  split <;> omega

theorem one_le_band_of_mem : ∀ (n : Nat) (ws : List Word) (r : RawDetection), r ∈ detectionRecords n ws → 1 ≤ r.band
  | 0, _, _, h => by simp [detectionRecords] at h
  | n + 1, w0 :: w1 :: w2 :: w3 :: w4 :: rest, r, h => by
    simp only [detectionRecords, List.mem_cons] at h
    rcases h with rfl | h
    · exact one_le_band _ _ _ _ _
    · exact one_le_band_of_mem n rest r h
  | _ + 1, [], _, h | _ + 1, [_], _, h | _ + 1, [_, _], _, h | _ + 1, [_, _, _], _, h | _ + 1, [_, _, _, _], _, h => by
    simp [detectionRecords] at h

theorem changes_takeDetection {t : Taking} {r : RawDetection} (hmode : t.s.mode ≠ .setup) (hband : 1 ≤ r.band) :
    Changes t.s (takeDetection t r).s := by
  unfold takeDetection
  split
  · exact Change.discard.chain
  next lane _ =>
    simp only
    split
    next =>
      refine Change.dropForFull.chain.trans (Change.chain (Change.span _ _ .intake ?_ ?_))
      · exact hmode
      · simp only [Detection.lastRow, RawDetection.entry]
        omega
    next hfull =>
      refine (Change.enter (.detection _) hmode (by simpa using hfull) ?_ (Nat.zero_le _)).chain
      exact hband

theorem takeDetection_mode (t : Taking) (r : RawDetection) : (takeDetection t r).s.mode = t.s.mode := by
  unfold takeDetection
  split
  · rfl
  · simp only
    split
    · exact addSpan_mode _ _ _ _
    · rfl

theorem changes_takeDetections (rs : List RawDetection) (hband : ∀ r ∈ rs, 1 ≤ r.band) (t : Taking)
    (hmode : t.s.mode ≠ .setup) : Changes t.s (rs.foldl takeDetection t).s := by
  induction rs generalizing t with
  | nil => exact .refl
  | cons r rs ih =>
    simp only [List.mem_cons, forall_eq_or_imp] at hband
    exact (changes_takeDetection hmode hband.1).trans (ih hband.2 _ (by rwa [takeDetection_mode]))

theorem changes_det (n : Nat) (ws : List Word) {s : State} (hmode : s.mode ≠ .setup) : Changes s (det n ws s).1 := by
  unfold det
  split
  · exact .refl
  · exact changes_takeDetections _ (one_le_band_of_mem n ws) ⟨s, 0, false, false⟩ hmode

theorem changes_takeSample {t : Taking} {r : RawSample} (hmode : t.s.mode ≠ .setup) :
    Changes t.s (takeSample t r).s ∧ (takeSample t r).s.mode = t.s.mode := by
  unfold takeSample
  split
  · exact ⟨Change.discard.chain, rfl⟩
  · split
    · exact ⟨Change.dropForFull.chain, rfl⟩
    next hfull => exact ⟨(Change.enter (.background _ _ _) hmode (by simpa using hfull) trivial (Nat.zero_le _)).chain, rfl⟩

theorem changes_takeSamples (rs : List RawSample) (t : Taking) (hmode : t.s.mode ≠ .setup) :
    Changes t.s (rs.foldl takeSample t).s := by
  induction rs generalizing t with
  | nil => exact .refl
  | cons r rs ih =>
    obtain ⟨hchain, heq⟩ := changes_takeSample (r := r) hmode
    exact hchain.trans (ih _ (by rwa [heq]))

theorem changes_bkg (n : Nat) (ws : List Word) {s : State} (hmode : s.mode ≠ .setup) : Changes s (bkg n ws s).1 := by
  unfold bkg
  split
  · exact .refl
  · exact changes_takeSamples _ ⟨s, 0, false, false⟩ hmode

theorem changes_markAt (p : Nat) {s : State} (hmode : s.mode ≠ .setup) : Changes s (markAt p s).1 := by
  unfold markAt
  split
  · exact .refl
  next hfull => exact (Change.enter (.mark _) hmode (by simpa using hfull) trivial (Nat.min_le_right _ _)).chain

theorem changes_gapOver (cause first last : Nat) {s : State} (hmode : s.mode ≠ .setup) :
    Changes s (gapOver cause first last s).1 := by
  unfold gapOver
  split
  · exact .refl
  · split
    · exact .refl
    next hends =>
      split
      · exact .refl
      next hfull =>
        refine (Change.enter (.gap _ _ _) hmode (by simpa using hfull) ?_ (Nat.zero_le _)).chain
        exact Nat.not_lt.mp hends

/-! ## The assembler and the grader -/

theorem changes_backgroundCompletion (s : State) : Changes s (backgroundCompletion s) := by
  unfold backgroundCompletion
  split
  next h => exact (Change.background _ _ _ h).chain
  next => exact .refl

theorem changes_detectionCompletion (s : State) : Changes s (detectionCompletion s) := by
  unfold detectionCompletion
  split
  next h => exact (Change.detection _ h).chain
  next => exact .refl

theorem changes_markCompletion (s : State) : Changes s (markCompletion s) := by
  unfold markCompletion
  split
  next h => exact (Change.mark _ h).chain
  next => exact .refl

theorem changes_gapCompletion (s : State) : Changes s (gapCompletion s) := by
  unfold gapCompletion
  split
  next h => exact (Change.gap _ _ _ h).chain
  next => exact .refl

theorem changes_takePiece (s : State) : Changes s (takePiece s) := by
  unfold takePiece
  split
  next p rest hclosing hqueue => exact (Change.pieceTaken p rest hclosing hqueue).chain
  next => exact .refl

theorem changes_cullClosing (s : State) : Changes s (cullClosing s) := by
  unfold cullClosing
  split
  next c h =>
    split
    · exact .refl
    · exact (Change.cullet c h).chain
  next => exact .refl

theorem changes_plateClosing (s : State) : Changes s (plateClosing s) := by
  unfold plateClosing
  split
  next c h =>
    split
    · exact (Change.plates c h).chain
    · exact .refl
  next => exact .refl

/-! ## The modes and the accounts -/

theorem changes_requestMode {m : Mode} (hm : m ≠ .setup) (s : State) : Changes s (requestMode m s).1 := by
  unfold requestMode requestEntry
  split
  next hmode =>
    split
    · exact (Change.entry m hmode hm).chain
    · exact .refl
  next hmode => exact (Change.switch m hmode hm).chain

theorem changes_modeAct (arg : Byte) (s : State) : Changes s (modeAct arg s).1 := by
  unfold modeAct
  split
  · unfold requestSetup
    split
    · exact .refl
    · exact Change.lineClear.chain
  · exact changes_requestMode (by decide) s
  · exact changes_requestMode (by decide) s
  · exact .refl
  · exact .refl

theorem changes_setTime (seconds : Nat) (s : State) : Changes s (setTime seconds s).1 := by
  unfold setTime
  split
  · exact .refl
  · exact (Change.setTime seconds).chain

theorem changes_writeShifts (ws : List Word) (s : State) : Changes s (writeShifts ws s).1 := by
  unfold writeShifts
  split
  · exact .refl
  · split
    · exact .refl
    · exact (Change.shiftTable _).chain

/-! ## The production tables and the recipes -/

theorem changes_writePattern (arg : Byte) (k : Nat) (columns : List Across) (s : State) :
    Changes s (writePattern arg k columns s).1 := by
  unfold writePattern
  simp only
  split
  · exact .refl
  · split
    · exact .refl
    · split
      · exact .refl
      · split
        · exact .refl
        · exact (Change.pattern _ _).chain

theorem changes_addOrder (arg : Byte) (ws : List Word) (s : State) : Changes s (addOrder arg ws s).1 := by
  unfold addOrder
  simp only
  split
  · exact .refl
  · split
    · exact .refl
    next o ho =>
      split
      · exact .refl
      · split
        · exact .refl
        next hroom =>
          have hlen : s.production.orders.length < 16 := by simpa [Config.orderCapacity] using hroom
          split
          · exact (Change.orderAdded ws o _ ho hlen (Or.inl rfl)).chain
          · exact (Change.orderAdded ws o _ ho hlen (Or.inr rfl)).chain

theorem changes_closeOrder (id : Nat) (s : State) : Changes s (closeOrder id s).1 := by
  unfold closeOrder
  split
  · exact (Change.orderClosed id).chain
  · exact .refl

theorem changes_dropOrder (id : Nat) (s : State) : Changes s (dropOrder id s).1 := by
  unfold dropOrder
  split
  · split
    · exact .refl
    · exact (Change.orderRemoved id).chain
  · exact .refl

theorem changes_requestSample (asked : Nat) {s : State} (hmode : s.mode ≠ .setup) :
    Changes s (requestSample asked s).1 := by
  unfold requestSample
  simp only
  split
  · exact .refl
  · split
    · exact .refl
    next hroom => exact (Change.sampleAdded _ hmode (by simpa [Config.sampleCapacity] using hroom)).chain

theorem changes_cancelSample (m : Nat) (s : State) : Changes s (cancelSample m s).1 := by
  unfold cancelSample
  split
  · exact (Change.sampleCancelled m).chain
  · exact .refl

theorem changes_writeRecipe (sec : Option Nat) (ws : List Word) (s : State) : Changes s (writeRecipe sec ws s).1 := by
  unfold writeRecipe
  split
  · exact .refl
  · split
    · exact .refl
    · split
      · exact (Change.recipes _).chain
      · exact .refl

theorem changes_promote (s : State) : Changes s (promote s) := (Change.recipes _).chain.trans (changes_raise _ _)

theorem changes_promotionTest (s : State) : Changes s (promotionTest s) := by
  unfold promotionTest
  split
  · split
    · exact changes_promote s
    · exact .refl
  · exact .refl

theorem changes_armAt (asked : Nat) (s : State) : Changes s (armAt asked s).1 := by
  unfold armAt
  split
  · exact .refl
  · split
    · exact changes_promote s
    · refine Changes.trans (u := armRecipe (max asked s.map.w) s) ?_ (changes_promotionTest _)
      exact (Change.recipes _).chain

theorem changes_conf {item : ConfItem} {l : Link} {b : Body} {s t : State} (h : confCommand item l b s = .next t) :
    Changes s t := by
  refine changes_command (fun u hmode => ?_) h
  unfold confAct
  split
  next hallowed => exact (Change.conf item b.data hmode hallowed).chain
  next => exact .refl

theorem changes_confListed {arg : Byte} {l : Link} {b : Body} {s t : State} (h : confListed arg l b s = .next t) :
    Changes s t := by
  unfold confListed at h
  split at h
  · exact changes_conf h
  · exact changes_answer h

/-! ## Commands -/

theorem changes_restart {l : Link} {arg : Byte} {b : Body} {s t : State} (h : execRestart l arg b s = .next t) :
    Changes s t := by
  unfold execRestart at h
  refine changes_transfer (fun u => ?_) h
  split
  · exact .refl
  · exact Change.restart.chain

theorem changes_emptyTransfer {l : Link} {tail : Nat} {s t : State} (h : execEmptyTransfer l tail s = .next t) :
    Changes s t := by
  unfold execEmptyTransfer at h
  obtain rfl := Host.Outcome.next.inj h
  split
  · exact changes_setLink _ _ _
  · exact (changes_settle s).trans (changes_setLink _ _ _)

theorem changes_unknownCommand {l : Link} {code arg : Byte} {b : Body} {s t : State}
    (h : execUnknownCommand l code arg b s = .next t) : Changes s t := by
  unfold execUnknownCommand at h
  split at h
  · cases h
  · exact changes_transfer (fun _ => .refl) h

theorem changes_pinReset {heldNs : Nat} {s t : State} (h : execPinReset heldNs s = .next t) : Changes s t := by
  unfold execPinReset at h
  obtain rfl := Host.Outcome.next.inj h
  split
  · exact Change.reset.chain
  · exact .refl

theorem changes_pulse (s : State) : Changes s (pulse s) := by
  refine (Change.pulse).chain.trans (changes_of_links ?_)
  have h := pulse_frame s
  have ht := pulse_travel s
  have : pulse s = { s with travel := s.travel.pulse s.conf, links := (pulse s).links } := by
    rw [← ht]
    exact (congrArg (fun u : State => { u with travel := (pulse s).travel, links := (pulse s).links }) h :)
  rw [this]

theorem changes_rcpArm {l : Link} {arg : Byte} {b : Body} {s t : State} (h : execRcpArm l arg b s = .next t) :
    Changes s t := by
  refine changes_command (fun u _ => ?_) h
  split
  · exact changes_armAt _ u
  · exact .refl

/-- Every command is a chain of effects. -/
theorem exec_changes {i : Instr} {s t : State} (h : exec i s = .next t) : Changes s t := by
  cases i
  case powerOn => obtain rfl := Host.Outcome.next.inj h; exact Change.reset.chain
  case pinReset => exact changes_pinReset h
  case internalResetEnd => obtain rfl := Host.Outcome.next.inj h; exact changes_of_frame rfl
  case encPulse => exact changes_blockStep changes_pulse h
  case tick => exact changes_blockStep (fun _ => Change.tick.chain) h
  case stoppedSet => exact changes_dueStep changes_settleStop h
  case timeStep => exact changes_dueStep changes_settleStep h
  case deadlineEvent => exact changes_blockStep changes_receiveDeadline h
  case commit => exact changes_blockStep changes_completeOpenDecision h
  case heldCommit => exact changes_dueStep changes_settleHeld h
  case expiry => exact changes_blockStep changes_receiveExpiry h
  case emptyTransfer l tail => exact changes_emptyTransfer (tail := tail) h
  case unknownCommand l code arg b => exact changes_unknownCommand (arg := arg) h
  case nop => exact changes_answer h
  case evt => exact changes_command (fun u _ => changes_setLink _ _ u) h
  case mask => exact changes_command (fun u _ => changes_setLink _ _ u) h
  case pos => exact changes_answer h
  case det => exact changes_command (fun _ hm => changes_det _ _ (ne_setup_of_notSetup hm)) h
  case bkg => exact changes_command (fun _ hm => changes_bkg _ _ (ne_setup_of_notSetup hm)) h
  case mark => exact changes_command (fun _ hm => changes_markAt _ (ne_setup_of_notSetup hm)) h
  case gap => exact changes_command (fun _ hm => changes_gapOver _ _ _ (ne_setup_of_notSetup hm)) h
  case gstat => exact changes_command (fun _ _ => Change.statusRead.chain) h
  case entryTake => exact changes_blockStep (fun _ => Change.entryTaken.chain) h
  case backgroundEntryComplete => exact changes_blockStep changes_backgroundCompletion h
  case detectionEntryComplete => exact changes_blockStep changes_detectionCompletion h
  case markEntryComplete => exact changes_blockStep changes_markCompletion h
  case gapEntryComplete => exact changes_blockStep changes_gapCompletion h
  case take => exact changes_command (fun u _ => changes_takeCut u) h
  case doneOk => exact changes_command (fun u _ => changes_doneCut _ _ u) h
  case doneMissed => exact changes_command (fun u _ => changes_doneCut _ _ u) h
  case route => exact changes_command (fun u _ => changes_readRoutes _ u) h
  case cstat => exact changes_answer h
  case pieceTake => exact changes_blockStep changes_takePiece h
  case cullPieceClose => exact changes_blockStep changes_cullClosing h
  case platePieceClose => exact changes_blockStep changes_plateClosing h
  case modeRead => exact changes_command (fun u _ => changes_modeAct _ u) h
  case modeRun => exact changes_command (fun u _ => changes_modeAct _ u) h
  case modeCull => exact changes_command (fun u _ => changes_modeAct _ u) h
  case modeSetup => exact changes_command (fun u _ => changes_modeAct _ u) h
  case restart l arg b => exact changes_restart (arg := arg) h
  case time => exact changes_command (fun u _ => changes_setTime _ u) h
  case shiftsWrite => exact changes_command (fun u _ => changes_writeShifts _ u) h
  case shiftsRead => exact changes_answer h
  case shiftClose => exact changes_command (fun _ _ => (Change.closeShift _ _).chain) h
  case report => exact changes_answer h
  case patWrite => exact changes_command (fun u _ => changes_writePattern _ _ _ u) h
  case patRead => exact changes_answer h
  case ordAdd => exact changes_command (fun u _ => changes_addOrder _ _ u) h
  case ordClose => exact changes_command (fun u _ => changes_closeOrder _ u) h
  case ordDrop => exact changes_command (fun u _ => changes_dropOrder _ u) h
  case ordRead => exact changes_answer h
  case rcpWriteKind => exact changes_command (fun u _ => changes_writeRecipe _ _ u) h
  case rcpWriteLimits => exact changes_command (fun u _ => changes_writeRecipe _ _ u) h
  case rcpWritePolicy => exact changes_command (fun u _ => changes_writeRecipe _ _ u) h
  case rcpCopy => exact changes_command (fun u _ => changes_writeRecipe _ _ u) h
  case rcpRead => exact changes_answer h
  case rcpArm l arg b => exact changes_rcpArm (arg := arg) h
  case rcpDisarm => exact changes_command (fun _ _ => (Change.recipes _).chain) h
  case sampleRequest => exact changes_command (fun _ hm => changes_requestSample _ (ne_setup_of_notSetup hm)) h
  case sampleCancel => exact changes_command (fun u _ => changes_cancelSample _ u) h
  case sampleRead => exact changes_answer h
  case flaw => exact changes_answer h
  case plate => exact changes_answer h
  case window => exact changes_answer h
  case confLaneExtent => exact changes_confListed h
  case confDestination => exact changes_confListed h
  all_goals exact changes_conf h

/-- Every step is a chain of effects. -/
theorem step_changes {s t : State} (h : step s = .next t) : Changes s t := by
  unfold step at h
  split at h
  next c rest _ => exact (changes_of_frame (t := { s with pending := rest }) rfl).trans (exec_changes h)
  next => obtain rfl := Host.Outcome.next.inj h; exact .refl

/-- A law of the state that every effect keeps is kept by every step. -/
theorem step_keeps {law : State → Prop} (hkeeps : ∀ s t, Change s t → law s → law t) {s t : State} (hs : law s)
    (h : step s = .next t) : law t := by
  have hchain := step_changes h
  clear h
  induction hchain with
  | refl => exact hs
  | tail _ hchange ih => exact hkeeps _ _ hchange ih

end Sys2Proof.Proofs.Steps
end

section
/-!
What the larger operations of the part write, and what they leave alone, each as one equation: the result with the written
fields put back is the part before.
-/

namespace Sys2Proof.Proofs.Frames

open Sys2Proof Sys2Proof.Machine

/-! ## The compares -/

/-- Following the head writes of the travel unit the expiry compare alone. -/
theorem rearmExpiry_travel (s : State) :
    { (rearmExpiry s).travel with expiry := s.travel.expiry, expiryRaised := s.travel.expiryRaised } = s.travel := by
  unfold rearmExpiry
  split
  · exact (congrArg
      (fun t : Travel => { t with expiry := s.travel.expiry, expiryRaised := s.travel.expiryRaised })
      (raiseExpiry_frame s.conf { s.travel with expiry := some ⟨_, _⟩ }) :)
  · rfl

/-- Losing the head writes of the travel unit the expiry compare alone. -/
theorem loseHead_travel (c : Cut) (rest : List Cut) (s : State) :
    { (loseHead c rest s).travel with expiry := s.travel.expiry, expiryRaised := s.travel.expiryRaised } = s.travel := by
  unfold loseHead
  simp only
  generalize hu : foldCutRow c _ = u
  have htravel : u.travel = s.travel := by
    rw [← hu]
    exact (congrArg State.travel (foldCutRow_frame c _) :)
  rw [← htravel]
  exact rearmExpiry_travel u

/-- A commit writes of the travel unit the two compares alone. -/
theorem commitRow_travel_frame (course : Course) (s : State) :
    { (commitRow course s).travel with
      deadline := s.travel.deadline, deadlineRaised := s.travel.deadlineRaised
      expiry := s.travel.expiry, expiryRaised := s.travel.expiryRaised } = s.travel := by
  rw [commitRow_travel]
  exact (congrArg
    (fun t : Travel =>
      { t with
        deadline := s.travel.deadline, deadlineRaised := s.travel.deadlineRaised
        expiry := s.travel.expiry, expiryRaised := s.travel.expiryRaised })
    (raiseDeadline_frame s.conf _) :).trans
    (congrArg
      (fun t : Travel => { t with deadline := s.travel.deadline, deadlineRaised := s.travel.deadlineRaised })
      (appendCut_travel _ _ _ _ s) :)

/-- The planner's part of a mode entry writes of the travel unit the two compares alone. -/
theorem enterPlanner_travel_frame (s : State) :
    { (enterPlanner s).travel with
      deadline := s.travel.deadline, deadlineRaised := s.travel.deadlineRaised
      expiry := s.travel.expiry, expiryRaised := s.travel.expiryRaised } = s.travel := by
  unfold enterPlanner armDeadline
  simp only
  generalize hu : appendCut s.entryStart .head none none _ = u
  have hcut := appendCut_travel s.entryStart .head none none
    { s with
      planner := { s.planner with state := .armed, s := s.entryStart }
      dispatcher := { s.dispatcher with headPos := s.entryStart } }
  rw [hu] at hcut
  exact (congrArg
    (fun t : Travel =>
      { t with
        deadline := s.travel.deadline, deadlineRaised := s.travel.deadlineRaised
        expiry := s.travel.expiry, expiryRaised := s.travel.expiryRaised })
    (raiseDeadline_frame u.conf { u.travel with deadline := some s.entryStart }) :).trans
    (congrArg
      (fun t : Travel => { t with deadline := s.travel.deadline, deadlineRaised := s.travel.deadlineRaised }) hcut :)

/-- A mode entry writes of the travel unit the two compares alone. -/
theorem enterMode_travel_frame (m : Mode) (s : State) :
    { (enterMode m s).travel with
      deadline := s.travel.deadline, deadlineRaised := s.travel.deadlineRaised
      expiry := s.travel.expiry, expiryRaised := s.travel.expiryRaised } = s.travel := by
  have hstale : (enterMode m s).travel = (enterPlanner (raiseMode { s with mode := m, switch := none })).travel :=
    (congrArg State.travel (evaluateStale_frame _) :)
  rw [hstale]
  exact enterPlanner_travel_frame (raiseMode { s with mode := m, switch := none })

/-! ## Lost and reported cuts -/

theorem missHead_frame (c : Cut) (rest : List Cut) (s : State) :
    { missHead c rest s with
      planner := s.planner, production := s.production, dispatcher := s.dispatcher, travel := s.travel
      accounts := s.accounts } = s :=
  (congrArg (fun t : State => { t with accounts := s.accounts }) (loseHead_frame c rest s) :)

theorem expireHead_frame (c : Cut) (rest : List Cut) (s : State) :
    { expireHead c rest s with
      planner := s.planner, production := s.production, dispatcher := s.dispatcher, travel := s.travel
      accounts := s.accounts, links := s.links } = s :=
  (congrArg (fun t : State => { t with accounts := s.accounts, links := s.links }) (loseHead_frame c rest s) :)

/-- The part of a reported cut before the compare follows the next head. -/
theorem executeHead_eq (c : Cut) (rest : List Cut) (a : Nat) (s : State) :
    ∃ u : State,
      { u with
        planner := s.planner, production := s.production, dispatcher := s.dispatcher, grader := s.grader } = s ∧
      executeHead c rest a s = rearmExpiry u ∧
      (u.planner = s.planner ∧ u.production = s.production ∨
        u.planner = (foldCutRow c s).planner ∧ u.production = (foldCutRow c s).production) := by
  refine ⟨_, ?_, rfl, ?_⟩
  · simp only
    split
    · rfl
    · exact (congrArg (fun t : State => { t with dispatcher := s.dispatcher, grader := s.grader }) (foldCutRow_frame c s) :)
  · simp only
    split
    · exact Or.inl ⟨rfl, rfl⟩
    · exact Or.inr ⟨rfl, rfl⟩

theorem executeHead_frame (c : Cut) (rest : List Cut) (a : Nat) (s : State) :
    { executeHead c rest a s with
      planner := s.planner, production := s.production, dispatcher := s.dispatcher, travel := s.travel
      grader := s.grader } = s := by
  obtain ⟨u, hframe, heq, -⟩ := executeHead_eq c rest a s
  rw [heq]
  exact ((congrArg
      (fun t : State =>
        { t with
          planner := s.planner, production := s.production, dispatcher := s.dispatcher, travel := s.travel
          grader := s.grader })
      (rearmExpiry_frame u) :).trans
    (congrArg (fun t : State => { t with travel := s.travel }) hframe :))

theorem executeHead_travel (c : Cut) (rest : List Cut) (a : Nat) (s : State) :
    { (executeHead c rest a s).travel with expiry := s.travel.expiry, expiryRaised := s.travel.expiryRaised } =
      s.travel := by
  obtain ⟨u, hframe, heq, -⟩ := executeHead_eq c rest a s
  have htravel : u.travel = s.travel := (congrArg State.travel hframe :)
  rw [heq, ← htravel]
  exact rearmExpiry_travel u

/-! ## Closing a piece -/

/-- The last three steps of a close: the row leaves, the piece is released, and the grader is idle. -/
theorem closed_frame (c : Closing) (s : State) :
    { finishClose (releasePiece c (removeClosedRow c s)) with planner := s.planner, map := s.map, grader := s.grader } =
      s := by
  unfold removeClosedRow
  split
  · split <;> rfl
  · rfl

theorem closed_map (c : Closing) (s : State) :
    (finishClose (releasePiece c (removeClosedRow c s))).map = s.map.release c.piece.stop := by
  unfold removeClosedRow
  split
  · split <;> rfl
  · rfl

theorem closed_grader (c : Closing) (s : State) :
    (finishClose (releasePiece c (removeClosedRow c s))).grader = { s.grader with closing := none } := by
  unfold removeClosedRow
  split
  · split <;> rfl
  · rfl

theorem closed_planner (c : Closing) (s : State) :
    (finishClose (releasePiece c (removeClosedRow c s))).planner =
      match c.piece.row with
      | some id => if c.cleared then s.planner else { s.planner with rows := removeRow id s.planner.rows }
      | none => s.planner := by
  unfold removeClosedRow
  rcases c.piece.row with _ | id
  · rfl
  · cases c.cleared <;> rfl

/-- Closing a piece as glass for the cullet writes neither the travel unit nor any input of the planner. -/
theorem closeCull_frame (c : Closing) (s : State) :
    { closeCull c s with
      planner := s.planner, dispatcher := s.dispatcher, accounts := s.accounts, links := s.links
      grader := s.grader, map := s.map } = s := by
  unfold closeCull
  simp only
  generalize hr : appendRoute _ s = r
  have hroute := appendRoute_frame
    ⟨c.piece.seq, c.piece.kind, 0, s.conf.dest[DestItem.cullet.slot], none, 0⟩ s
  rw [hr] at hroute
  exact ((congrArg
      (fun t : State =>
        { t with
          planner := s.planner, dispatcher := s.dispatcher, accounts := s.accounts, links := s.links
          grader := s.grader, map := s.map })
      (closed_frame c (countPiece c (r.count (Counts.addCull c.piece.length)))) :).trans
    (congrArg
      (fun t : State => { t with planner := s.planner, grader := s.grader, map := s.map }) hroute :))

/-- The plates of a piece, and the part with their ids taken and their accounting steps made. -/
def formed (c : Closing) (s : State) : State × List Plate := c.blanks.foldl (formPlate c) (s, [])

/-- The part with the plates' routing entries appended. -/
def routed (c : Closing) (plates : List Plate) (s : State) : State :=
  plates.foldl (fun s p => appendRoute (p.route c) s) s

/-- The part with the plates logged. -/
def logged (plates : List Plate) (s : State) : State := plates.foldl (fun s p => logPlate p.entry s) s

/-- The part with the plates counted. -/
def counted (plates : List Plate) (s : State) : State := plates.foldl (fun s p => countPlate p s) s

theorem closePlates_eq (c : Closing) (s : State) :
    closePlates c s =
      finishClose
        (releasePiece c
          (removeClosedRow c
            (countPiece c
              (counted (formed c s).2 (logged (formed c s).2 (routed c (formed c s).2 (formed c s).1)))))) :=
  rfl

theorem formed_frame (c : Closing) (s : State) :
    { (formed c s).1 with grader := s.grader, production := s.production, links := s.links } = s := by
  have key : ∀ (bs : List Blank) (acc : State × List Plate),
      { (bs.foldl (formPlate c) acc).1 with grader := s.grader, production := s.production, links := s.links } =
        { acc.1 with grader := s.grader, production := s.production, links := s.links } := by
    intro bs
    induction bs with
    | nil => exact fun _ => rfl
    | cons b bs ih =>
      intro acc
      exact (ih _).trans (congrArg
        (fun t : State => { t with grader := s.grader, production := s.production, links := s.links })
        (formPlate_frame c acc b) :)
  exact key c.blanks (s, [])

theorem routed_frame (c : Closing) (plates : List Plate) (s : State) :
    { routed c plates s with dispatcher := s.dispatcher, accounts := s.accounts, links := s.links } = s := by
  unfold routed
  induction plates generalizing s with
  | nil => rfl
  | cons p plates ih =>
    exact (congrArg
      (fun t : State => { t with dispatcher := s.dispatcher, accounts := s.accounts, links := s.links })
      (ih (appendRoute (p.route c) s)) :).trans (appendRoute_frame (p.route c) s)

theorem logged_frame (plates : List Plate) (s : State) : { logged plates s with grader := s.grader } = s := by
  unfold logged
  induction plates generalizing s with
  | nil => rfl
  | cons p plates ih =>
    exact (congrArg (fun t : State => { t with grader := s.grader }) (ih (logPlate p.entry s)) :).trans
      (logPlate_frame p.entry s)

theorem counted_frame (plates : List Plate) (s : State) : { counted plates s with accounts := s.accounts } = s := by
  unfold counted
  induction plates generalizing s with
  | nil => rfl
  | cons p plates ih =>
    exact (congrArg (fun t : State => { t with accounts := s.accounts }) (ih (countPlate p s)) :).trans
      (countPlate_frame p s)

/-- Closing a piece as plates writes neither the travel unit nor any input of the planner but the orders. -/
theorem closePlates_frame (c : Closing) (s : State) :
    { closePlates c s with
      planner := s.planner, dispatcher := s.dispatcher, accounts := s.accounts, links := s.links
      grader := s.grader, map := s.map, production := s.production } = s := by
  rw [closePlates_eq]
  have hformed := formed_frame c s
  generalize formed c s = f at hformed
  have hrouted := routed_frame c f.2 f.1
  generalize routed c f.2 f.1 = r at hrouted
  have hlogged := logged_frame f.2 r
  generalize logged f.2 r = g at hlogged
  have hcounted := counted_frame f.2 g
  generalize counted f.2 g = k at hcounted
  let erase := fun t : State =>
    { t with
      planner := s.planner, dispatcher := s.dispatcher, accounts := s.accounts, links := s.links
      grader := s.grader, map := s.map, production := s.production }
  calc erase (finishClose (releasePiece c (removeClosedRow c (countPiece c k))))
      = erase (countPiece c k) := (congrArg erase (closed_frame c (countPiece c k)) :)
    _ = erase g := (congrArg erase hcounted :)
    _ = erase r := (congrArg erase hlogged :)
    _ = erase f.1 := (congrArg erase hrouted :)
    _ = s := (congrArg
        (fun t : State =>
          { t with
            planner := s.planner, dispatcher := s.dispatcher, accounts := s.accounts, map := s.map }) hformed :)

@[simp] theorem closeCull_map (c : Closing) (s : State) : (closeCull c s).map = s.map.release c.piece.stop := by
  unfold closeCull
  simp only
  rw [closed_map]
  exact congrArg (fun m : RibbonMap => m.release c.piece.stop) (appendRoute_map _ s)

@[simp] theorem closeCull_grader (c : Closing) (s : State) :
    (closeCull c s).grader = { s.grader with closing := none } := by
  unfold closeCull
  simp only
  rw [closed_grader]
  exact congrArg (fun g : Grader => { g with closing := none }) (appendRoute_grader _ s)

/-- The part before the three last steps of a plate close, whose map is still the one before. -/
theorem counted_map (c : Closing) (s : State) :
    (counted (formed c s).2 (logged (formed c s).2 (routed c (formed c s).2 (formed c s).1))).map = s.map :=
  calc (counted (formed c s).2 (logged (formed c s).2 (routed c (formed c s).2 (formed c s).1))).map
      = (logged (formed c s).2 (routed c (formed c s).2 (formed c s).1)).map := (congrArg State.map (counted_frame _ _) :)
    _ = (routed c (formed c s).2 (formed c s).1).map := (congrArg State.map (logged_frame _ _) :)
    _ = (formed c s).1.map := (congrArg State.map (routed_frame c _ _) :)
    _ = s.map := (congrArg State.map (formed_frame c s) :)

@[simp] theorem closePlates_map (c : Closing) (s : State) : (closePlates c s).map = s.map.release c.piece.stop := by
  rw [closePlates_eq, closed_map]
  exact congrArg (fun m : RibbonMap => m.release c.piece.stop) (counted_map c s)

/-! ## The modes -/

theorem lineClear_frame (s : State) :
    { lineClear s with
      travel := s.travel, intake := s.intake, assembler := s.assembler, map := s.map, production := s.production
      planner := s.planner, dispatcher := s.dispatcher, grader := s.grader, links := s.links } = s :=
  rfl

/-- A return to SETUP is the line clear in SETUP without a switch; MODE is raised where the mode changes. -/
theorem returnToSetup_eq (s : State) :
    { returnToSetup s with links := s.links } =
      { lineClear { s with mode := .setup, switch := none } with links := s.links } := by
  unfold returnToSetup
  simp only
  split <;> rfl

theorem openDecision_travel (s : State) : (openDecision s).travel = { s.travel with deadlineRaised := none } := by
  unfold openDecision
  simp

theorem stepTime_travel (s : State) :
    (stepTime s).travel = { s.travel with seconds := nextSecond s.travel.seconds, stepDue := false } := by
  unfold stepTime accountsStep
  simp only
  split <;> rfl

/-! ## What each effect leaves, field by field -/

@[simp] theorem stepTime_mode (s : State) : (stepTime s).mode = s.mode :=
  (congrArg State.mode (stepTime_frame s) :)
@[simp] theorem stepTime_switch (s : State) : (stepTime s).switch = s.switch :=
  (congrArg State.switch (stepTime_frame s) :)
@[simp] theorem stepTime_conf (s : State) : (stepTime s).conf = s.conf :=
  (congrArg State.conf (stepTime_frame s) :)
@[simp] theorem stepTime_intake (s : State) : (stepTime s).intake = s.intake :=
  (congrArg State.intake (stepTime_frame s) :)
@[simp] theorem stepTime_assembler (s : State) : (stepTime s).assembler = s.assembler :=
  (congrArg State.assembler (stepTime_frame s) :)
@[simp] theorem stepTime_map (s : State) : (stepTime s).map = s.map :=
  (congrArg State.map (stepTime_frame s) :)
@[simp] theorem stepTime_production (s : State) : (stepTime s).production = s.production :=
  (congrArg State.production (stepTime_frame s) :)
@[simp] theorem stepTime_planner (s : State) : (stepTime s).planner = s.planner :=
  (congrArg State.planner (stepTime_frame s) :)
@[simp] theorem stepTime_dispatcher (s : State) : (stepTime s).dispatcher = s.dispatcher :=
  (congrArg State.dispatcher (stepTime_frame s) :)
@[simp] theorem stepTime_grader (s : State) : (stepTime s).grader = s.grader :=
  (congrArg State.grader (stepTime_frame s) :)

@[simp] theorem openDecision_conf (s : State) : (openDecision s).conf = s.conf :=
  (congrArg State.conf (openDecision_frame s) :)
@[simp] theorem openDecision_intake (s : State) : (openDecision s).intake = s.intake :=
  (congrArg State.intake (openDecision_frame s) :)
@[simp] theorem openDecision_assembler (s : State) : (openDecision s).assembler = s.assembler :=
  (congrArg State.assembler (openDecision_frame s) :)
@[simp] theorem openDecision_map (s : State) : (openDecision s).map = s.map :=
  (congrArg State.map (openDecision_frame s) :)
@[simp] theorem openDecision_production (s : State) : (openDecision s).production = s.production :=
  (congrArg State.production (openDecision_frame s) :)
@[simp] theorem openDecision_dispatcher (s : State) : (openDecision s).dispatcher = s.dispatcher :=
  (congrArg State.dispatcher (openDecision_frame s) :)
@[simp] theorem openDecision_grader (s : State) : (openDecision s).grader = s.grader :=
  (congrArg State.grader (openDecision_frame s) :)
@[simp] theorem openDecision_accounts (s : State) : (openDecision s).accounts = s.accounts :=
  (congrArg State.accounts (openDecision_frame s) :)

@[simp] theorem expireHead_mode (c : Cut) (rest : List Cut) (s : State) : (expireHead c rest s).mode = s.mode :=
  (congrArg State.mode (expireHead_frame c rest s) :)
@[simp] theorem expireHead_switch (c : Cut) (rest : List Cut) (s : State) : (expireHead c rest s).switch = s.switch :=
  (congrArg State.switch (expireHead_frame c rest s) :)
@[simp] theorem expireHead_conf (c : Cut) (rest : List Cut) (s : State) : (expireHead c rest s).conf = s.conf :=
  (congrArg State.conf (expireHead_frame c rest s) :)
@[simp] theorem expireHead_intake (c : Cut) (rest : List Cut) (s : State) : (expireHead c rest s).intake = s.intake :=
  (congrArg State.intake (expireHead_frame c rest s) :)
@[simp] theorem expireHead_assembler (c : Cut) (rest : List Cut) (s : State) : (expireHead c rest s).assembler = s.assembler :=
  (congrArg State.assembler (expireHead_frame c rest s) :)
@[simp] theorem expireHead_map (c : Cut) (rest : List Cut) (s : State) : (expireHead c rest s).map = s.map :=
  (congrArg State.map (expireHead_frame c rest s) :)
@[simp] theorem expireHead_grader (c : Cut) (rest : List Cut) (s : State) : (expireHead c rest s).grader = s.grader :=
  (congrArg State.grader (expireHead_frame c rest s) :)

@[simp] theorem missHead_mode (c : Cut) (rest : List Cut) (s : State) : (missHead c rest s).mode = s.mode :=
  (congrArg State.mode (missHead_frame c rest s) :)
@[simp] theorem missHead_switch (c : Cut) (rest : List Cut) (s : State) : (missHead c rest s).switch = s.switch :=
  (congrArg State.switch (missHead_frame c rest s) :)
@[simp] theorem missHead_conf (c : Cut) (rest : List Cut) (s : State) : (missHead c rest s).conf = s.conf :=
  (congrArg State.conf (missHead_frame c rest s) :)
@[simp] theorem missHead_intake (c : Cut) (rest : List Cut) (s : State) : (missHead c rest s).intake = s.intake :=
  (congrArg State.intake (missHead_frame c rest s) :)
@[simp] theorem missHead_assembler (c : Cut) (rest : List Cut) (s : State) : (missHead c rest s).assembler = s.assembler :=
  (congrArg State.assembler (missHead_frame c rest s) :)
@[simp] theorem missHead_map (c : Cut) (rest : List Cut) (s : State) : (missHead c rest s).map = s.map :=
  (congrArg State.map (missHead_frame c rest s) :)
@[simp] theorem missHead_grader (c : Cut) (rest : List Cut) (s : State) : (missHead c rest s).grader = s.grader :=
  (congrArg State.grader (missHead_frame c rest s) :)

@[simp] theorem executeHead_mode (c : Cut) (rest : List Cut) (a : Nat) (s : State) : (executeHead c rest a s).mode = s.mode :=
  (congrArg State.mode (executeHead_frame c rest a s) :)
@[simp] theorem executeHead_switch (c : Cut) (rest : List Cut) (a : Nat) (s : State) : (executeHead c rest a s).switch = s.switch :=
  (congrArg State.switch (executeHead_frame c rest a s) :)
@[simp] theorem executeHead_conf (c : Cut) (rest : List Cut) (a : Nat) (s : State) : (executeHead c rest a s).conf = s.conf :=
  (congrArg State.conf (executeHead_frame c rest a s) :)
@[simp] theorem executeHead_intake (c : Cut) (rest : List Cut) (a : Nat) (s : State) : (executeHead c rest a s).intake = s.intake :=
  (congrArg State.intake (executeHead_frame c rest a s) :)
@[simp] theorem executeHead_assembler (c : Cut) (rest : List Cut) (a : Nat) (s : State) : (executeHead c rest a s).assembler = s.assembler :=
  (congrArg State.assembler (executeHead_frame c rest a s) :)
@[simp] theorem executeHead_map (c : Cut) (rest : List Cut) (a : Nat) (s : State) : (executeHead c rest a s).map = s.map :=
  (congrArg State.map (executeHead_frame c rest a s) :)
@[simp] theorem executeHead_accounts (c : Cut) (rest : List Cut) (a : Nat) (s : State) : (executeHead c rest a s).accounts = s.accounts :=
  (congrArg State.accounts (executeHead_frame c rest a s) :)

@[simp] theorem completeDetection_mode (d : Detection) (s : State) : (completeDetection d s).mode = s.mode :=
  (congrArg State.mode (completeDetection_frame d s) :)
@[simp] theorem completeDetection_switch (d : Detection) (s : State) : (completeDetection d s).switch = s.switch :=
  (congrArg State.switch (completeDetection_frame d s) :)
@[simp] theorem completeDetection_conf (d : Detection) (s : State) : (completeDetection d s).conf = s.conf :=
  (congrArg State.conf (completeDetection_frame d s) :)
@[simp] theorem completeDetection_travel (d : Detection) (s : State) : (completeDetection d s).travel = s.travel :=
  (congrArg State.travel (completeDetection_frame d s) :)
@[simp] theorem completeDetection_intake (d : Detection) (s : State) : (completeDetection d s).intake = s.intake :=
  (congrArg State.intake (completeDetection_frame d s) :)
@[simp] theorem completeDetection_production (d : Detection) (s : State) : (completeDetection d s).production = s.production :=
  (congrArg State.production (completeDetection_frame d s) :)
@[simp] theorem completeDetection_planner (d : Detection) (s : State) : (completeDetection d s).planner = s.planner :=
  (congrArg State.planner (completeDetection_frame d s) :)
@[simp] theorem completeDetection_dispatcher (d : Detection) (s : State) : (completeDetection d s).dispatcher = s.dispatcher :=
  (congrArg State.dispatcher (completeDetection_frame d s) :)
@[simp] theorem completeDetection_grader (d : Detection) (s : State) : (completeDetection d s).grader = s.grader :=
  (congrArg State.grader (completeDetection_frame d s) :)

@[simp] theorem closeCull_mode (c : Closing) (s : State) : (closeCull c s).mode = s.mode :=
  (congrArg State.mode (closeCull_frame c s) :)
@[simp] theorem closeCull_switch (c : Closing) (s : State) : (closeCull c s).switch = s.switch :=
  (congrArg State.switch (closeCull_frame c s) :)
@[simp] theorem closeCull_conf (c : Closing) (s : State) : (closeCull c s).conf = s.conf :=
  (congrArg State.conf (closeCull_frame c s) :)
@[simp] theorem closeCull_travel (c : Closing) (s : State) : (closeCull c s).travel = s.travel :=
  (congrArg State.travel (closeCull_frame c s) :)
@[simp] theorem closeCull_intake (c : Closing) (s : State) : (closeCull c s).intake = s.intake :=
  (congrArg State.intake (closeCull_frame c s) :)
@[simp] theorem closeCull_assembler (c : Closing) (s : State) : (closeCull c s).assembler = s.assembler :=
  (congrArg State.assembler (closeCull_frame c s) :)
@[simp] theorem closeCull_production (c : Closing) (s : State) : (closeCull c s).production = s.production :=
  (congrArg State.production (closeCull_frame c s) :)

@[simp] theorem closePlates_mode (c : Closing) (s : State) : (closePlates c s).mode = s.mode :=
  (congrArg State.mode (closePlates_frame c s) :)
@[simp] theorem closePlates_switch (c : Closing) (s : State) : (closePlates c s).switch = s.switch :=
  (congrArg State.switch (closePlates_frame c s) :)
@[simp] theorem closePlates_conf (c : Closing) (s : State) : (closePlates c s).conf = s.conf :=
  (congrArg State.conf (closePlates_frame c s) :)
@[simp] theorem closePlates_travel (c : Closing) (s : State) : (closePlates c s).travel = s.travel :=
  (congrArg State.travel (closePlates_frame c s) :)
@[simp] theorem closePlates_intake (c : Closing) (s : State) : (closePlates c s).intake = s.intake :=
  (congrArg State.intake (closePlates_frame c s) :)
@[simp] theorem closePlates_assembler (c : Closing) (s : State) : (closePlates c s).assembler = s.assembler :=
  (congrArg State.assembler (closePlates_frame c s) :)

@[simp] theorem enterMode_conf (m : Mode) (s : State) : (enterMode m s).conf = s.conf :=
  (congrArg State.conf (enterMode_frame m s) :)
@[simp] theorem enterMode_intake (m : Mode) (s : State) : (enterMode m s).intake = s.intake :=
  (congrArg State.intake (enterMode_frame m s) :)
@[simp] theorem enterMode_assembler (m : Mode) (s : State) : (enterMode m s).assembler = s.assembler :=
  (congrArg State.assembler (enterMode_frame m s) :)
@[simp] theorem enterMode_map (m : Mode) (s : State) : (enterMode m s).map = s.map :=
  (congrArg State.map (enterMode_frame m s) :)
@[simp] theorem enterMode_production (m : Mode) (s : State) : (enterMode m s).production = s.production :=
  (congrArg State.production (enterMode_frame m s) :)
@[simp] theorem enterMode_grader (m : Mode) (s : State) : (enterMode m s).grader = s.grader :=
  (congrArg State.grader (enterMode_frame m s) :)
@[simp] theorem enterMode_accounts (m : Mode) (s : State) : (enterMode m s).accounts = s.accounts :=
  (congrArg State.accounts (enterMode_frame m s) :)

theorem completeMark_frame (m : Nat) (s : State) :
    { completeMark m s with
      assembler := s.assembler, map := s.map, accounts := s.accounts, recipes := s.recipes, links := s.links } = s := by
  let erase := fun t : State =>
    { t with assembler := s.assembler, map := s.map, accounts := s.accounts, recipes := s.recipes, links := s.links }
  calc erase (promotionTest (sweep (advanceToMark m s)))
      = erase (sweep (advanceToMark m s)) := (congrArg erase (promotionTest_frame _) :)
    _ = erase (advanceToMark m s) := (congrArg erase (sweep_frame _) :)
    _ = s := by
      unfold advanceToMark
      split <;> rfl

theorem completeGap_frame (first last : Nat) (cause : GapCause) (s : State) :
    { completeGap first last cause s with
      assembler := s.assembler, map := s.map, accounts := s.accounts, recipes := s.recipes, links := s.links } = s := by
  let erase := fun t : State =>
    { t with assembler := s.assembler, map := s.map, accounts := s.accounts, recipes := s.recipes, links := s.links }
  let spanned := addSpan (min first s.map.w) last cause.span s
  calc erase (promotionTest (sweep (advanceToGap last spanned)))
      = erase (sweep (advanceToGap last spanned)) := (congrArg erase (promotionTest_frame _) :)
    _ = erase spanned := (congrArg erase (sweep_frame _) :)
    _ = s := (congrArg (fun t : State => { t with assembler := s.assembler, accounts := s.accounts, recipes := s.recipes })
        (addSpan_frame (min first s.map.w) last cause.span s) :)

@[simp] theorem completeMark_mode (m : Nat) (s : State) : (completeMark m s).mode = s.mode :=
  (congrArg State.mode (completeMark_frame m s) :)
@[simp] theorem completeMark_switch (m : Nat) (s : State) : (completeMark m s).switch = s.switch :=
  (congrArg State.switch (completeMark_frame m s) :)
@[simp] theorem completeMark_conf (m : Nat) (s : State) : (completeMark m s).conf = s.conf :=
  (congrArg State.conf (completeMark_frame m s) :)
@[simp] theorem completeMark_travel (m : Nat) (s : State) : (completeMark m s).travel = s.travel :=
  (congrArg State.travel (completeMark_frame m s) :)
@[simp] theorem completeMark_intake (m : Nat) (s : State) : (completeMark m s).intake = s.intake :=
  (congrArg State.intake (completeMark_frame m s) :)
@[simp] theorem completeMark_production (m : Nat) (s : State) : (completeMark m s).production = s.production :=
  (congrArg State.production (completeMark_frame m s) :)
@[simp] theorem completeMark_planner (m : Nat) (s : State) : (completeMark m s).planner = s.planner :=
  (congrArg State.planner (completeMark_frame m s) :)
@[simp] theorem completeMark_dispatcher (m : Nat) (s : State) : (completeMark m s).dispatcher = s.dispatcher :=
  (congrArg State.dispatcher (completeMark_frame m s) :)
@[simp] theorem completeMark_grader (m : Nat) (s : State) : (completeMark m s).grader = s.grader :=
  (congrArg State.grader (completeMark_frame m s) :)

@[simp] theorem completeGap_mode (first last : Nat) (cause : GapCause) (s : State) : (completeGap first last cause s).mode = s.mode :=
  (congrArg State.mode (completeGap_frame first last cause s) :)
@[simp] theorem completeGap_switch (first last : Nat) (cause : GapCause) (s : State) : (completeGap first last cause s).switch = s.switch :=
  (congrArg State.switch (completeGap_frame first last cause s) :)
@[simp] theorem completeGap_conf (first last : Nat) (cause : GapCause) (s : State) : (completeGap first last cause s).conf = s.conf :=
  (congrArg State.conf (completeGap_frame first last cause s) :)
@[simp] theorem completeGap_travel (first last : Nat) (cause : GapCause) (s : State) : (completeGap first last cause s).travel = s.travel :=
  (congrArg State.travel (completeGap_frame first last cause s) :)
@[simp] theorem completeGap_intake (first last : Nat) (cause : GapCause) (s : State) : (completeGap first last cause s).intake = s.intake :=
  (congrArg State.intake (completeGap_frame first last cause s) :)
@[simp] theorem completeGap_production (first last : Nat) (cause : GapCause) (s : State) : (completeGap first last cause s).production = s.production :=
  (congrArg State.production (completeGap_frame first last cause s) :)
@[simp] theorem completeGap_planner (first last : Nat) (cause : GapCause) (s : State) : (completeGap first last cause s).planner = s.planner :=
  (congrArg State.planner (completeGap_frame first last cause s) :)
@[simp] theorem completeGap_dispatcher (first last : Nat) (cause : GapCause) (s : State) : (completeGap first last cause s).dispatcher = s.dispatcher :=
  (congrArg State.dispatcher (completeGap_frame first last cause s) :)
@[simp] theorem completeGap_grader (first last : Nat) (cause : GapCause) (s : State) : (completeGap first last cause s).grader = s.grader :=
  (congrArg State.grader (completeGap_frame first last cause s) :)

@[simp] theorem returnToSetup_mode (s : State) : (returnToSetup s).mode = .setup :=
  (congrArg State.mode (returnToSetup_eq s) :)
@[simp] theorem returnToSetup_switch (s : State) : (returnToSetup s).switch = none :=
  (congrArg State.switch (returnToSetup_eq s) :)
@[simp] theorem returnToSetup_conf (s : State) : (returnToSetup s).conf = s.conf :=
  (congrArg State.conf (returnToSetup_eq s) :)
@[simp] theorem returnToSetup_travel (s : State) : (returnToSetup s).travel = s.travel.lineClear :=
  (congrArg State.travel (returnToSetup_eq s) :)
@[simp] theorem returnToSetup_intake (s : State) : (returnToSetup s).intake = s.intake.lineClear :=
  (congrArg State.intake (returnToSetup_eq s) :)
@[simp] theorem returnToSetup_assembler (s : State) : (returnToSetup s).assembler = ⟨Vector.replicate 32 none, 0⟩ :=
  (congrArg State.assembler (returnToSetup_eq s) :)
@[simp] theorem returnToSetup_map (s : State) : (returnToSetup s).map = s.map.lineClear s.travel.p :=
  (congrArg State.map (returnToSetup_eq s) :)
@[simp] theorem returnToSetup_production (s : State) : (returnToSetup s).production = s.production.lineClear :=
  (congrArg State.production (returnToSetup_eq s) :)
@[simp] theorem returnToSetup_planner (s : State) : (returnToSetup s).planner = s.planner.lineClear :=
  (congrArg State.planner (returnToSetup_eq s) :)
@[simp] theorem returnToSetup_dispatcher (s : State) : (returnToSetup s).dispatcher = s.dispatcher.lineClear :=
  (congrArg State.dispatcher (returnToSetup_eq s) :)
@[simp] theorem returnToSetup_grader (s : State) : (returnToSetup s).grader = s.grader.lineClear :=
  (congrArg State.grader (returnToSetup_eq s) :)
@[simp] theorem returnToSetup_accounts (s : State) : (returnToSetup s).accounts = s.accounts :=
  (congrArg State.accounts (returnToSetup_eq s) :)

@[simp] theorem restart_mode (s : State) : (restart s).mode = .setup := returnToSetup_mode s
@[simp] theorem restart_switch (s : State) : (restart s).switch = none := returnToSetup_switch s
@[simp] theorem restart_conf (s : State) : (restart s).conf = s.conf := returnToSetup_conf s
@[simp] theorem restart_travel (s : State) : (restart s).travel = s.travel.lineClear := returnToSetup_travel s
@[simp] theorem restart_intake (s : State) : (restart s).intake = s.intake.lineClear := returnToSetup_intake s
@[simp] theorem restart_assembler (s : State) : (restart s).assembler = ⟨Vector.replicate 32 none, 0⟩ := returnToSetup_assembler s
@[simp] theorem restart_map (s : State) : (restart s).map = s.map.lineClear s.travel.p := returnToSetup_map s
@[simp] theorem restart_production (s : State) :
    (restart s).production = { s.production.lineClear with orders := [] } := by
  simp [restart]
@[simp] theorem restart_planner (s : State) : (restart s).planner = s.planner.lineClear := returnToSetup_planner s
@[simp] theorem restart_dispatcher (s : State) : (restart s).dispatcher = s.dispatcher.lineClear := returnToSetup_dispatcher s
@[simp] theorem restart_grader (s : State) : (restart s).grader = s.grader.lineClear := returnToSetup_grader s
@[simp] theorem restart_accounts (s : State) : (restart s).accounts = s.accounts := returnToSetup_accounts s

end Sys2Proof.Proofs.Frames
end

section
/-!
The watermark law (R2, R3, R88): W ≤ P, and no MARK that waits lies beyond P. Only a pulse moves P, and it moves it up; only
the completion of a MARK or GAP moves W up, to the position the entry carries or to P at most.
-/

namespace Sys2Proof.Proofs.Watermark

open Sys2Proof Sys2Proof.Machine Sys2Proof.Proofs.Steps Sys2Proof.Proofs.Frames

/-! ## What the law reads -/

/-- `t` has the travel count, the watermark and the entries of `s`, or fewer entries. -/
structure SameMarks (s t : State) : Prop where
  p : t.travel.p = s.travel.p
  remainder : t.travel.remainder = s.travel.remainder
  w : t.map.w = s.map.w
  entries : ∀ e ∈ t.intake.entries, e ∈ s.intake.entries

theorem SameMarks.law {s t : State} (h : SameMarks s t) (hs : WatermarkLaw s) : WatermarkLaw t := by
  obtain ⟨hp, hrem, hw, hmarks⟩ := hs
  refine ⟨by rw [h.p]; exact hp, by rw [h.remainder]; exact hrem, by rw [h.w, h.p]; exact hw, fun e he => ?_⟩
  rw [h.p]
  exact hmarks e (h.entries e he)

/-- Where the travel count, the watermark and the intake stay, so do the marks. -/
theorem sameMarks_of_frame {s t : State} (htravel : { t.travel with
      deadline := s.travel.deadline, deadlineRaised := s.travel.deadlineRaised
      expiry := s.travel.expiry, expiryRaised := s.travel.expiryRaised } = s.travel)
    (hw : t.map.w = s.map.w) (hintake : t.intake = s.intake) : SameMarks s t :=
  ⟨(congrArg Travel.p htravel :), (congrArg Travel.remainder htravel :), hw, fun e he => by rwa [hintake] at he⟩

/-- Where the travel unit, the watermark and the intake stay, so do the marks. -/
theorem sameMarks_of_eq {s t : State} (htravel : t.travel = s.travel) (hw : t.map.w = s.map.w)
    (hintake : t.intake = s.intake) : SameMarks s t :=
  sameMarks_of_frame (by rw [htravel]) hw hintake

/-! ## Entries -/

theorem mem_entries {q : Intake} {e : Entry} : e ∈ q.entries ↔ e ∈ q.queue ∨ q.inProcess = some e := by
  simp [Intake.entries]

theorem mem_entries_push {q : Intake} {e x : Entry} : x ∈ (q.receive.push e).entries ↔ x ∈ q.entries ∨ x = e := by
  simp only [mem_entries, Intake.push, Intake.receive, List.mem_append, List.mem_singleton]
  grind

theorem mem_entries_takeOldest {q : Intake} {e : Entry} : e ∈ q.takeOldest.entries ↔ e ∈ q.entries := by
  unfold Intake.takeOldest
  split
  next x rest hnone hqueue =>
    simp only [mem_entries, hnone, hqueue, List.mem_cons, Option.some.injEq, reduceCtorEq, or_false]
    grind
  next => rfl

theorem mem_entries_of_finish {s : State} {e : Entry} (h : e ∈ (finishEntry s).intake.entries) : e ∈ s.intake.entries := by
  simp only [finishEntry, mem_entries, reduceCtorEq, or_false] at h
  exact mem_entries.mpr (Or.inl h)

/-- The entry an assembler completes is one of the entries before. -/
theorem mem_entries_of_inProcess {q : Intake} {e : Entry} (h : q.inProcess = some e) : e ∈ q.entries :=
  mem_entries.mpr (Or.inr h)

/-! ## The watermark moves -/

theorem completeDetection_w (d : Detection) (s : State) : (completeDetection d s).map.w = s.map.w := by
  have hassemble : ∀ m late (u : State), (assemble m late u).1.map.w = u.map.w := by
    intro m late u
    unfold assemble
    simp only
    split
    · unfold openNew
      split
      · rfl
      · rfl
      · simp only [forceClose]
        split <;> simp
    · rfl
  unfold completeDetection
  simp only
  split
  · split
    · simp
    · split <;> simp [hassemble]
  · exact hassemble _ _ _

theorem completeMark_w (m : Nat) (s : State) : (completeMark m s).map.w = max s.map.w m := by
  unfold completeMark advanceToMark
  rw [promotionTest_map, sweep_w]
  split
  next h => exact (Nat.max_eq_right (Nat.le_of_lt h)).symm
  next h => exact (Nat.max_eq_left (Nat.not_lt.mp h)).symm

theorem completeGap_w (first last : Nat) (cause : GapCause) (s : State) :
    (completeGap first last cause s).map.w = max s.map.w (min last s.travel.p) := by
  simp [completeGap, advanceToGap]

/-- W moves up to a position no further than P. -/
theorem law_of_advance {s t : State} (h : WatermarkLaw s) {m : Nat} (hm : m ≤ s.travel.p)
    (hw : t.map.w = max s.map.w m) (htravel : t.travel = s.travel)
    (hentries : ∀ e ∈ t.intake.entries, e ∈ s.intake.entries) : WatermarkLaw t := by
  obtain ⟨hp, hrem, hle, hmarks⟩ := h
  unfold WatermarkLaw
  rw [htravel, hw]
  exact ⟨hp, hrem, Nat.max_le.mpr ⟨hle, hm⟩, fun e he => hmarks e (hentries e he)⟩

/-! ## The pulse -/

theorem pulse_counts (conf : Conf) (t : Travel) :
    (t.pulse conf).p = (pulseCount t.p t.remainder conf.encoderScale).1 ∧
      (t.pulse conf).remainder = (pulseCount t.p t.remainder conf.encoderScale).2 := by
  simp [Travel.pulse]

theorem law_of_pulse {s : State} (h : WatermarkLaw s) : WatermarkLaw { s with travel := s.travel.pulse s.conf } := by
  obtain ⟨hp, hrem, hle, hmarks⟩ := h
  obtain ⟨hup, hmax, hrem'⟩ := pulseCount_spec (r := s.travel.remainder) (u := s.conf.encoderScale) hp
  obtain ⟨hpulse, hpulseRem⟩ := pulse_counts s.conf s.travel
  rw [← hpulse] at hup hmax
  rw [← hpulseRem] at hrem'
  exact ⟨hmax, hrem', Nat.le_trans hle hup, fun e he => Nat.le_trans (hmarks e he) hup⟩

/-! ## Every effect -/

/-- The deadline compare is no part of the marks. -/
theorem sameMarks_of_expiry {s t : State}
    (htravel : { t.travel with expiry := s.travel.expiry, expiryRaised := s.travel.expiryRaised } = s.travel)
    (hw : t.map.w = s.map.w) (hintake : t.intake = s.intake) : SameMarks s t :=
  sameMarks_of_frame
    (congrArg (fun u : Travel =>
      { u with deadline := s.travel.deadline, deadlineRaised := s.travel.deadlineRaised }) htravel :) hw hintake

theorem law_of_lineClear {s t : State} (htravel : t.travel = s.travel.lineClear)
    (hmap : t.map = s.map.lineClear s.travel.p) (hintake : t.intake = s.intake.lineClear) (hs : WatermarkLaw s) :
    WatermarkLaw t := by
  obtain ⟨hp, hrem, _, _⟩ := hs
  unfold WatermarkLaw
  rw [htravel, hmap, hintake]
  exact ⟨hp, hrem, Nat.le_refl _, by simp [Intake.lineClear, Intake.entries]⟩

theorem change_keeps (s t : State) (h : Change s t) (hs : WatermarkLaw s) : WatermarkLaw t := by
  have hsame : SameMarks s t → WatermarkLaw t := fun h => h.law hs
  cases h with
  | reset => exact ⟨Nat.zero_le _, Nat.zero_le _, Nat.le_refl _, by simp [resetAsserted, State.reset, Intake.entries]⟩
  | pulse => exact law_of_pulse hs
  | second => exact hsame ⟨by rw [stepTime_travel], by rw [stepTime_travel], by simp, by simp⟩
  | opening => exact hsame (sameMarks_of_frame (by rw [openDecision_travel]) (by simp) (by simp))
  | commit c => exact hsame (sameMarks_of_frame (commitRow_travel_frame c s) (by simp) (by simp))
  | expire c rest => exact hsame (sameMarks_of_expiry (loseHead_travel c rest s :) (by simp) (by simp))
  | miss c rest => exact hsame (sameMarks_of_expiry (loseHead_travel c rest s :) (by simp) (by simp))
  | execute c rest a => exact hsame (sameMarks_of_expiry (executeHead_travel c rest a s) (by simp) (by simp))
  | enter e _ _ _ hmark =>
    obtain ⟨hp, hrem, hle, hmarks⟩ := hs
    refine ⟨hp, hrem, hle, fun x hx => ?_⟩
    rcases mem_entries_push.mp hx with hx | rfl
    · exact hmarks x hx
    · exact hmark
  | span => exact hsame (sameMarks_of_eq (by simp) (by simp) (by simp))
  | entryTaken => exact hsame ⟨rfl, rfl, rfl, fun e he => (mem_entries_takeOldest (q := s.intake)).mp he⟩
  | background => exact hsame ⟨rfl, rfl, rfl, fun e => mem_entries_of_finish⟩
  | detection d =>
    exact hsame ⟨by simp [finishEntry], by simp [finishEntry], completeDetection_w d _,
      fun e he => mem_entries_of_finish (by simpa using he)⟩
  | mark m hm =>
    have ⟨_, _, _, hmarks⟩ := hs
    exact law_of_advance hs (hmarks (.mark m) (mem_entries_of_inProcess hm)) (completeMark_w m _)
      (by simp [finishEntry]) fun e he => mem_entries_of_finish (by simpa using he)
  | gap first last cause =>
    exact law_of_advance hs (Nat.min_le_right last _) (completeGap_w first last cause _) (by simp [finishEntry])
      fun e he => mem_entries_of_finish (by simpa using he)
  | cullet => exact hsame (sameMarks_of_eq (by simp) (by simp [RibbonMap.release]) (by simp))
  | plates => exact hsame (sameMarks_of_eq (by simp) (by simp [RibbonMap.release]) (by simp))
  | entry m => exact hsame (sameMarks_of_frame (enterMode_travel_frame m s) (by simp) (by simp))
  | lineClear => exact law_of_lineClear (by simp) (by simp) (by simp) hs
  | restart => exact law_of_lineClear (by simp) (by simp) (by simp) hs
  | frame | tick | stop | setTime | shiftTable | closeShift | hold | expiryTaken | issue | routesRead | discard
  | dropForFull | statusRead | pieceTaken | switch | pattern | orderAdded | orderClosed | orderRemoved | sampleAdded
  | sampleCancelled | recipes | conf => exact hsame ⟨rfl, rfl, rfl, fun _ he => he⟩

/-- Settles O54: every effect a step can have keeps the law. -/
theorem everyStepKeepsTheWatermarkLaw : Obligations.EveryStepKeepsTheWatermarkLaw :=
  fun _ _ => step_keeps change_keeps

end Sys2Proof.Proofs.Watermark
end

section
/-!
What the larger operations do to one block: the rows and the orders when a cut is lost or reported, the cut queue and the
routing list, the plate counts, and the grader when it closes a piece.
-/

namespace Sys2Proof.Proofs.Blocks

open Sys2Proof Sys2Proof.Machine Sys2Proof.Proofs.Frames

/-! ## The lengths of the orders -/

/-- An update of one element keeps what it leaves of every element. -/
theorem map_updateFirst {α β : Type} (found : α → Bool) (f : α → α) {g : α → β} (h : ∀ x, g (f x) = g x) (xs : List α) :
    (updateFirst found f xs).map g = xs.map g := by
  induction xs with
  | nil => rfl
  | cons x xs ih =>
    unfold updateFirst
    split
    · simp [h]
    · simp [ih]

/-- The length and the short length of each order (R94). -/
def lengths (p : Production) : List (Nat × Option Nat) := p.orders.map fun o => (o.lp, o.short)

theorem lengths_length (p : Production) : (lengths p).length = p.orders.length := by simp [lengths]

/-- An update of an order's counts keeps the lengths. -/
theorem lengths_updateOrder {id : Nat} {f : Order → Order} {p : Production}
    (h : ∀ o : Order, ((f o).lp, (f o).short) = (o.lp, o.short)) : lengths (p.updateOrder id f) = lengths p :=
  map_updateFirst _ f h p.orders

theorem lengths_releasePlates (order : Option Nat) (plates : Nat) (s : State) :
    lengths (releasePlates order plates s).production = lengths s.production := by
  unfold releasePlates
  split
  · split
    · rfl
    · exact lengths_updateOrder fun _ => rfl
  · rfl

theorem lengths_reservePlates (order : Option Nat) (plates : Nat) (p : Production) :
    lengths (reservePlates order plates p) = lengths p := by
  unfold reservePlates
  split
  · split
    · rfl
    · exact lengths_updateOrder fun _ => rfl
  · rfl

theorem lengths_commitRow (course : Course) (s : State) :
    lengths (commitRow course s).production = lengths s.production := by
  obtain ⟨-, -, hproduction⟩ := commitRow_spec course s
  rw [hproduction]
  exact lengths_reservePlates _ _ s.production

theorem samples_commitRow (course : Course) (s : State) :
    (commitRow course s).production.samples = dropDueSample course s.production.samples := by
  obtain ⟨-, -, hproduction⟩ := commitRow_spec course s
  rw [hproduction]

theorem dropDueSample_length_le (course : Course) (samples : List Nat) :
    (dropDueSample course samples).length ≤ samples.length := by
  unfold dropDueSample
  split
  · exact List.length_erase_le
  · exact Nat.le_refl _

/-! ## Lost and reported cuts -/

/-- The row table with the row of a cut or a piece removed, where it has one. -/
def rowsAfter (row : Option Nat) (rows : List Row) : List Row :=
  match row with
  | some id => removeRow id rows
  | none => rows

theorem rowsAfter_length_le (row : Option Nat) (rows : List Row) : (rowsAfter row rows).length ≤ rows.length := by
  cases row with
  | none => exact Nat.le_refl _
  | some id => exact removeRow_length_le id rows

theorem foldRow_planner (id : Nat) (s : State) :
    (foldRow id s).planner = { s.planner with rows := removeRow id s.planner.rows } := by
  unfold foldRow
  split
  next row _ =>
    have hplanner : (releasePlates row.order row.orderPlates s).planner = s.planner :=
      (congrArg State.planner (releasePlates_frame row.order row.orderPlates s) :)
    simp [removeRowOf, hplanner]
  next hnone =>
    have habsent : ∀ r ∈ s.planner.rows, r.id ≠ id := by simpa [Planner.row, List.find?_eq_none] using hnone
    rw [removeRow_of_none habsent]

theorem foldCutRow_planner (c : Cut) (s : State) :
    (foldCutRow c s).planner = { s.planner with rows := rowsAfter c.row s.planner.rows } := by
  unfold foldCutRow
  rcases c.row with _ | id
  · rfl
  · exact foldRow_planner id s

/-- Plates given back change of the tables the orders alone. -/
theorem samples_releasePlates (order : Option Nat) (plates : Nat) (s : State) :
    (releasePlates order plates s).production.samples = s.production.samples := by
  unfold releasePlates
  split
  · split <;> rfl
  · rfl

theorem foldRow_production (id : Nat) (s : State) :
    lengths (foldRow id s).production = lengths s.production ∧
      (foldRow id s).production.samples = s.production.samples := by
  unfold foldRow
  split
  next row _ =>
    exact ⟨lengths_releasePlates row.order row.orderPlates s, samples_releasePlates row.order row.orderPlates s⟩
  next => exact ⟨rfl, rfl⟩

theorem foldCutRow_production (c : Cut) (s : State) :
    lengths (foldCutRow c s).production = lengths s.production ∧
      (foldCutRow c s).production.samples = s.production.samples := by
  unfold foldCutRow
  rcases c.row with _ | id
  · exact ⟨rfl, rfl⟩
  · exact foldRow_production id s

/-- A fold writes of the dispatcher the merged-piece record alone. -/
theorem foldCutRow_dispatcher (c : Cut) (s : State) :
    { (foldCutRow c s).dispatcher with merged := s.dispatcher.merged } = s.dispatcher := by
  unfold foldCutRow foldRow
  rcases c.row with _ | id
  · rfl
  · simp only
    split
    next row _ =>
      have hframe := releasePlates_frame row.order row.orderPlates s
      exact (congrArg (fun t : State => { t.dispatcher with merged := s.dispatcher.merged }) hframe :)
    next => rfl

theorem loseHead_planner (c : Cut) (rest : List Cut) (s : State) :
    (loseHead c rest s).planner = { s.planner with rows := rowsAfter c.row s.planner.rows } := by
  unfold loseHead
  rw [rearmExpiry_planner, foldCutRow_planner]

theorem loseHead_production (c : Cut) (rest : List Cut) (s : State) :
    lengths (loseHead c rest s).production = lengths s.production ∧
      (loseHead c rest s).production.samples = s.production.samples := by
  unfold loseHead
  rw [rearmExpiry_production]
  exact foldCutRow_production c _

theorem loseHead_dispatcher (c : Cut) (rest : List Cut) (s : State) :
    { (loseHead c rest s).dispatcher with cuts := s.dispatcher.cuts, merged := s.dispatcher.merged } = s.dispatcher := by
  unfold loseHead
  simp only
  rw [rearmExpiry_dispatcher]
  exact (congrArg (fun d : Dispatcher => { d with cuts := s.dispatcher.cuts, merged := s.dispatcher.merged })
    (foldCutRow_dispatcher c _) :)

/-- A reported cut removes its own row from the row table, or none. -/
theorem executeHead_planner (c : Cut) (rest : List Cut) (a : Nat) (s : State) :
    ∃ row, (executeHead c rest a s).planner = { s.planner with rows := rowsAfter row s.planner.rows } := by
  obtain ⟨u, -, heq, ⟨hplanner, -⟩ | ⟨hplanner, -⟩⟩ := executeHead_eq c rest a s
  · exact ⟨none, by rw [heq, rearmExpiry_planner, hplanner]; rfl⟩
  · exact ⟨c.row, by rw [heq, rearmExpiry_planner, hplanner, foldCutRow_planner]⟩

theorem executeHead_production (c : Cut) (rest : List Cut) (a : Nat) (s : State) :
    lengths (executeHead c rest a s).production = lengths s.production ∧
      (executeHead c rest a s).production.samples = s.production.samples := by
  obtain ⟨u, -, heq, ⟨-, hproduction⟩ | ⟨-, hproduction⟩⟩ := executeHead_eq c rest a s
  · rw [heq, rearmExpiry_production, hproduction]
    exact ⟨rfl, rfl⟩
  · rw [heq, rearmExpiry_production, hproduction]
    exact foldCutRow_production c s

theorem executeHead_dispatcher (c : Cut) (rest : List Cut) (a : Nat) (s : State) :
    { (executeHead c rest a s).dispatcher with
      cuts := s.dispatcher.cuts, aLast := s.dispatcher.aLast, merged := s.dispatcher.merged } = s.dispatcher := by
  unfold executeHead
  simp only
  rw [rearmExpiry_dispatcher]
  split
  · rfl
  · exact (congrArg
      (fun d : Dispatcher =>
        { d with cuts := s.dispatcher.cuts, aLast := s.dispatcher.aLast, merged := s.dispatcher.merged })
      (foldCutRow_dispatcher c s) :)

theorem executeHead_grader (c : Cut) (rest : List Cut) (a : Nat) (s : State) :
    (executeHead c rest a s).grader =
      { s.grader with queue := s.grader.queue ++ [pieceOf c (formPiece s.dispatcher c a) a] } := by
  unfold executeHead
  simp only
  rw [rearmExpiry_grader]
  split
  · rfl
  · exact congrArg
      (fun g : Grader => { g with queue := g.queue ++ [pieceOf c (formPiece s.dispatcher c a) a] })
      (congrArg State.grader (foldCutRow_frame c s) :)

/-! ## The plate counts -/

/-- The plate counts of the running counters, and the report store (R171, R176). -/
def tallies (a : Accounts) : (Vector Nat 4 × Vector Nat 6) × List Report := ((a.counts.byGrade, a.counts.byDest), a.reports)

theorem tallies_handOver (f : FlawRecord) (s : State) : tallies (handOver f s).accounts = tallies s.accounts := by
  unfold handOver
  split
  · rfl
  · split
    · rfl
    · split
      · rfl
      · rw [raise_accounts, addSpan_accounts]
        rfl

theorem tallies_closeRecord (f : OpenFlaw) (forced : Bool) (s : State) :
    tallies (closeRecord f forced s).accounts = tallies s.accounts := by
  unfold closeRecord
  split
  · rfl
  · simp only
    split
    · rfl
    · exact tallies_handOver _ _

theorem tallies_closeFlaw (forced : Bool) (x : Slotted) (s : State) :
    tallies (closeFlaw forced x s).accounts = tallies s.accounts := tallies_closeRecord x.flaw forced s

theorem tallies_forceClose (x : Slotted) (s : State) : tallies (forceClose x s).accounts = tallies s.accounts := by
  have hclosed := tallies_closeFlaw true x (raise .forced (s.count fun c => { c with forcedCloses := bump c.forcedCloses }))
  unfold forceClose
  simp only
  split
  · exact hclosed
  · rw [addSpan_accounts]
    exact hclosed

theorem tallies_assemble (m : Measured) (late : Bool) (s : State) :
    tallies (assemble m late s).1.accounts = tallies s.accounts := by
  unfold assemble
  simp only
  split
  · unfold openNew
    split
    · rfl
    · rfl
    · exact tallies_forceClose _ s
  · rfl

theorem tallies_completeDetection (d : Detection) (s : State) :
    tallies (completeDetection d s).accounts = tallies s.accounts := by
  unfold completeDetection
  simp only
  split
  · split
    · rfl
    · split
      · exact (tallies_closeFlaw _ _ _).trans (tallies_assemble _ _ _)
      · exact tallies_assemble _ _ _
  · exact tallies_assemble _ _ _

theorem tallies_sweep (s : State) : tallies (sweep s).accounts = tallies s.accounts := by
  unfold sweep
  generalize s.sweepList = xs
  induction xs generalizing s with
  | nil => rfl
  | cons x xs ih => exact (ih (closeFlaw false x s)).trans (tallies_closeFlaw false x s)

theorem tallies_completeMark (m : Nat) (s : State) : tallies (completeMark m s).accounts = tallies s.accounts := by
  unfold completeMark
  rw [promotionTest_accounts, tallies_sweep]
  unfold advanceToMark
  split <;> rfl

theorem tallies_completeGap (first last : Nat) (cause : GapCause) (s : State) :
    tallies (completeGap first last cause s).accounts = tallies s.accounts := by
  unfold completeGap
  rw [promotionTest_accounts, tallies_sweep]
  exact congrArg tallies (addSpan_accounts _ last cause.span s)

theorem tallies_commitRow (course : Course) (s : State) :
    tallies (commitRow course s).accounts = tallies s.accounts := by
  obtain ⟨haccounts, -⟩ := commitRow_accounts_links course s
  rw [haccounts]
  rfl

theorem loseHead_accounts (c : Cut) (rest : List Cut) (s : State) : (loseHead c rest s).accounts = s.accounts :=
  (congrArg State.accounts (loseHead_frame c rest s) :)

theorem tallies_missHead (c : Cut) (rest : List Cut) (s : State) :
    tallies (missHead c rest s).accounts = tallies s.accounts :=
  (congrArg tallies (loseHead_accounts c rest s) :)

theorem tallies_expireHead (c : Cut) (rest : List Cut) (s : State) :
    tallies (expireHead c rest s).accounts = tallies s.accounts :=
  (congrArg tallies (loseHead_accounts c rest s) :)

theorem tallies_appendRoute (e : RouteEntry) (s : State) : tallies (appendRoute e s).accounts = tallies s.accounts := by
  unfold appendRoute
  simp only
  split <;> rfl

theorem closed_accounts (c : Closing) (s : State) :
    (finishClose (releasePiece c (removeClosedRow c s))).accounts = s.accounts :=
  (congrArg State.accounts (closed_frame c s) :)

theorem tallies_closeCull (c : Closing) (s : State) : tallies (closeCull c s).accounts = tallies s.accounts := by
  unfold closeCull
  simp only
  rw [closed_accounts]
  exact tallies_appendRoute _ s

theorem tallies_routed (c : Closing) (plates : List Plate) (s : State) :
    tallies (routed c plates s).accounts = tallies s.accounts := by
  unfold routed
  induction plates generalizing s with
  | nil => rfl
  | cons p plates ih => exact (ih _).trans (tallies_appendRoute _ s)

/-- Nothing is counted before the plates of a close are logged. -/
theorem tallies_logged (c : Closing) (s : State) :
    tallies (logged (formed c s).2 (routed c (formed c s).2 (formed c s).1)).accounts = tallies s.accounts :=
  calc tallies (logged (formed c s).2 (routed c (formed c s).2 (formed c s).1)).accounts
      = tallies (routed c (formed c s).2 (formed c s).1).accounts :=
        congrArg tallies (congrArg State.accounts (logged_frame _ _) :)
    _ = tallies (formed c s).1.accounts := tallies_routed c _ _
    _ = tallies s.accounts := congrArg tallies (congrArg State.accounts (formed_frame c s) :)

theorem reports_counted (plates : List Plate) (s : State) :
    (counted plates s).accounts.reports = s.accounts.reports := by
  have hplate : ∀ p (u : State), (countPlate p u).accounts.reports = u.accounts.reports := by
    intro p u
    unfold countPlate
    simp only
    split <;> rfl
  unfold counted
  induction plates generalizing s with
  | nil => rfl
  | cons p plates ih => exact (ih _).trans (hplate p s)

theorem reports_closePlates (c : Closing) (s : State) :
    (closePlates c s).accounts.reports = s.accounts.reports :=
  calc (closePlates c s).accounts.reports
      = (countPiece c
          (counted (formed c s).2 (logged (formed c s).2 (routed c (formed c s).2 (formed c s).1)))).accounts.reports :=
        congrArg Accounts.reports (closed_accounts c _)
    _ = (logged (formed c s).2 (routed c (formed c s).2 (formed c s).1)).accounts.reports := reports_counted _ _
    _ = s.accounts.reports := (congrArg Prod.snd (tallies_logged c s) :)

/-! ## The routing list -/

theorem routing_appendRoute_length_le {e : RouteEntry} {s : State} (h : s.dispatcher.routing.length ≤ 32) :
    (appendRoute e s).dispatcher.routing.length ≤ 32 := by
  rw [appendRoute_routing]
  split
  · simpa using by omega
  · simp
    omega

theorem routing_routed_length_le (c : Closing) (plates : List Plate) {s : State} (h : s.dispatcher.routing.length ≤ 32) :
    (routed c plates s).dispatcher.routing.length ≤ 32 := by
  unfold routed
  induction plates generalizing s with
  | nil => exact h
  | cons p plates ih => exact ih (routing_appendRoute_length_le h)

theorem closed_dispatcher (c : Closing) (s : State) :
    (finishClose (releasePiece c (removeClosedRow c s))).dispatcher = s.dispatcher :=
  (congrArg State.dispatcher (closed_frame c s) :)

theorem closeCull_dispatcher (c : Closing) (s : State) :
    ∃ e, (closeCull c s).dispatcher = (appendRoute e s).dispatcher := by
  unfold closeCull
  exact ⟨_, closed_dispatcher c _⟩

theorem closePlates_dispatcher (c : Closing) (s : State) :
    (closePlates c s).dispatcher = (routed c (formed c s).2 (formed c s).1).dispatcher :=
  calc (closePlates c s).dispatcher
      = (counted (formed c s).2 (logged (formed c s).2 (routed c (formed c s).2 (formed c s).1))).dispatcher :=
        closed_dispatcher c _
    _ = (logged (formed c s).2 (routed c (formed c s).2 (formed c s).1)).dispatcher :=
        (congrArg State.dispatcher (counted_frame _ _) :)
    _ = (routed c (formed c s).2 (formed c s).1).dispatcher := (congrArg State.dispatcher (logged_frame _ _) :)

theorem formed_dispatcher (c : Closing) (s : State) : (formed c s).1.dispatcher = s.dispatcher :=
  (congrArg State.dispatcher (formed_frame c s) :)

/-- Routing entries change of the dispatcher the routing list and its count of lost entries alone. -/
theorem appendRoute_dispatcher (e : RouteEntry) (s : State) :
    { (appendRoute e s).dispatcher with routing := s.dispatcher.routing, routeLost := s.dispatcher.routeLost } =
      s.dispatcher := by
  unfold appendRoute
  simp only
  split <;> rfl

theorem routed_dispatcher (c : Closing) (plates : List Plate) (s : State) :
    { (routed c plates s).dispatcher with routing := s.dispatcher.routing, routeLost := s.dispatcher.routeLost } =
      s.dispatcher := by
  unfold routed
  induction plates generalizing s with
  | nil => rfl
  | cons p plates ih =>
    exact (congrArg
      (fun d : Dispatcher => { d with routing := s.dispatcher.routing, routeLost := s.dispatcher.routeLost })
      (ih (appendRoute (p.route c) s)) :).trans (appendRoute_dispatcher (p.route c) s)

/-! ## Closing a piece -/

theorem closeCull_planner (c : Closing) (s : State) :
    (closeCull c s).planner =
      if c.cleared then s.planner else { s.planner with rows := rowsAfter c.piece.row s.planner.rows } := by
  unfold closeCull
  simp only
  rw [closed_planner]
  generalize hr : appendRoute _ s = r
  have hplanner : r.planner = s.planner := by rw [← hr, appendRoute_planner]
  have hcounted : (countPiece c (r.count (Counts.addCull c.piece.length))).planner = s.planner := hplanner
  rw [hcounted]
  rcases c.piece.row with _ | id
  · cases c.cleared <;> rfl
  · rfl

theorem closePlates_planner (c : Closing) (s : State) :
    (closePlates c s).planner =
      if c.cleared then s.planner else { s.planner with rows := rowsAfter c.piece.row s.planner.rows } := by
  rw [closePlates_eq, closed_planner]
  have hplanner : (countPiece c (counted (formed c s).2 (logged (formed c s).2 (routed c (formed c s).2
      (formed c s).1)))).planner = s.planner :=
    calc (counted (formed c s).2 (logged (formed c s).2 (routed c (formed c s).2 (formed c s).1))).planner
        = (logged (formed c s).2 (routed c (formed c s).2 (formed c s).1)).planner :=
          (congrArg State.planner (counted_frame _ _) :)
      _ = (routed c (formed c s).2 (formed c s).1).planner := (congrArg State.planner (logged_frame _ _) :)
      _ = (formed c s).1.planner := (congrArg State.planner (routed_frame c _ _) :)
      _ = s.planner := (congrArg State.planner (formed_frame c s) :)
  rw [hplanner]
  rcases c.piece.row with _ | id
  · cases c.cleared <;> rfl
  · rfl

theorem lengths_accountPlate (id : Nat) (delivers : Bool) (s : State) :
    lengths (accountPlate id delivers s).production = lengths s.production ∧
      (accountPlate id delivers s).production.samples = s.production.samples := by
  have hupdate : lengths (s.production.updateOrder id (Order.step delivers)) = lengths s.production :=
    lengths_updateOrder fun _ => rfl
  unfold accountPlate
  split
  · simp only
    split <;> exact ⟨hupdate, rfl⟩
  · exact ⟨rfl, rfl⟩

theorem formPlate_production (c : Closing) (acc : State × List Plate) (b : Blank) :
    lengths (formPlate c acc b).1.production = lengths acc.1.production ∧
      (formPlate c acc b).1.production.samples = acc.1.production.samples := by
  unfold formPlate
  simp only
  split
  · exact lengths_accountPlate _ _ _
  · exact ⟨rfl, rfl⟩

theorem formed_production (c : Closing) (s : State) :
    lengths (formed c s).1.production = lengths s.production ∧
      (formed c s).1.production.samples = s.production.samples := by
  have key : ∀ (bs : List Blank) (acc : State × List Plate),
      lengths (bs.foldl (formPlate c) acc).1.production = lengths acc.1.production ∧
        (bs.foldl (formPlate c) acc).1.production.samples = acc.1.production.samples := by
    intro bs
    induction bs with
    | nil => exact fun _ => ⟨rfl, rfl⟩
    | cons b bs ih =>
      intro acc
      obtain ⟨hlengths, hsamples⟩ := formPlate_production c acc b
      obtain ⟨hlengths', hsamples'⟩ := ih (formPlate c acc b)
      exact ⟨hlengths'.trans hlengths, hsamples'.trans hsamples⟩
  exact key c.blanks (s, [])

theorem closePlates_production_eq (c : Closing) (s : State) :
    (closePlates c s).production = (formed c s).1.production :=
  calc (closePlates c s).production
      = (counted (formed c s).2 (logged (formed c s).2 (routed c (formed c s).2 (formed c s).1))).production :=
        (congrArg State.production (closed_frame c _) :)
    _ = (logged (formed c s).2 (routed c (formed c s).2 (formed c s).1)).production :=
        (congrArg State.production (counted_frame _ _) :)
    _ = (routed c (formed c s).2 (formed c s).1).production := (congrArg State.production (logged_frame _ _) :)
    _ = (formed c s).1.production := (congrArg State.production (routed_frame c _ _) :)

theorem closePlates_production (c : Closing) (s : State) :
    lengths (closePlates c s).production = lengths s.production ∧
      (closePlates c s).production.samples = s.production.samples := by
  rw [closePlates_production_eq]
  exact formed_production c s

/-- The grader of a plate close: the plates take their ids, are logged, and the grader is idle. -/
theorem closePlates_grader (c : Closing) (s : State) :
    (closePlates c s).grader =
      { (logged (formed c s).2 (routed c (formed c s).2 (formed c s).1)).grader with closing := none } := by
  rw [closePlates_eq, closed_grader]
  exact congrArg (fun g : Grader => { g with closing := none })
    (congrArg State.grader (counted_frame (formed c s).2 _) :)

theorem formPlate_grader (c : Closing) (acc : State × List Plate) (b : Blank) :
    (formPlate c acc b).1.grader = takePlateId acc.1.grader := by
  unfold formPlate
  simp only
  split
  · exact (congrArg State.grader (accountPlate_frame _ _ _) :)
  · rfl

theorem formed_queue (c : Closing) (s : State) : (formed c s).1.grader.queue = s.grader.queue := by
  have key : ∀ (bs : List Blank) (acc : State × List Plate),
      (bs.foldl (formPlate c) acc).1.grader.queue = acc.1.grader.queue := by
    intro bs
    induction bs with
    | nil => exact fun _ => rfl
    | cons b bs ih => exact fun acc => (ih _).trans (by rw [formPlate_grader]; rfl)
  exact key c.blanks (s, [])

theorem logged_queue (plates : List Plate) (s : State) : (logged plates s).grader.queue = s.grader.queue := by
  unfold logged
  induction plates generalizing s with
  | nil => rfl
  | cons p plates ih => exact ih (logPlate p.entry s)

/-- A plate close takes no piece and leaves the grader idle. -/
theorem closePlates_queue (c : Closing) (s : State) :
    (closePlates c s).grader.queue = s.grader.queue ∧ (closePlates c s).grader.closing = none := by
  rw [closePlates_grader]
  refine ⟨?_, rfl⟩
  calc (logged (formed c s).2 (routed c (formed c s).2 (formed c s).1)).grader.queue
      = (routed c (formed c s).2 (formed c s).1).grader.queue := logged_queue _ _
    _ = (formed c s).1.grader.queue := (congrArg (fun t : State => t.grader.queue) (routed_frame c _ _) :)
    _ = s.grader.queue := formed_queue c s

/-! ## Mode entry -/

/-- The planner's part of a mode entry: it is armed with the plan start (R119). -/
theorem enterMode_planner (m : Mode) (s : State) :
    (enterMode m s).planner = { s.planner with state := .armed, s := s.entryStart } := by
  have hstale : (enterMode m s).planner = (enterPlanner (raiseMode { s with mode := m, switch := none })).planner :=
    (congrArg State.planner (evaluateStale_frame _) :)
  rw [hstale]
  unfold enterPlanner
  rw [armDeadline_planner, appendCut_planner]
  rfl

/-- The dispatcher's part of a mode entry: the head cut at the plan start (R119, R137). -/
theorem enterMode_dispatcher (m : Mode) (s : State) :
    (enterMode m s).dispatcher =
      { s.dispatcher with
        headPos := s.entryStart
        cuts := s.dispatcher.cuts ++ [⟨s.dispatcher.nextSeq, s.entryStart, .head, none, none, .queued⟩]
        nextSeq := wrapSucc s.dispatcher.nextSeq } := by
  have hstale : (enterMode m s).dispatcher =
      (enterPlanner (raiseMode { s with mode := m, switch := none })).dispatcher :=
    (congrArg State.dispatcher (evaluateStale_frame _) :)
  rw [hstale]
  unfold enterPlanner
  rw [armDeadline_dispatcher, appendCut_dispatcher]
  rfl

theorem enterMode_mode (m : Mode) (s : State) : (enterMode m s).mode = m ∧ (enterMode m s).switch = none := by
  have hmode : (enterMode m s).mode = (enterPlanner (raiseMode { s with mode := m, switch := none })).mode :=
    (congrArg State.mode (evaluateStale_frame _) :)
  have hswitch : (enterMode m s).switch = (enterPlanner (raiseMode { s with mode := m, switch := none })).switch :=
    (congrArg State.switch (evaluateStale_frame _) :)
  rw [hmode, hswitch]
  unfold enterPlanner
  rw [armDeadline_mode, armDeadline_switch, appendCut_mode, appendCut_switch]
  exact ⟨rfl, rfl⟩

end Sys2Proof.Proofs.Blocks
end

section
/-!
The plate counts (R171): a plate is added to its grade and to its destination class together or to neither, and no other
effect writes either count but a shift close, which zeroes both.
-/

namespace Sys2Proof.Proofs.PlateCounts

open Sys2Proof Sys2Proof.Machine Sys2Proof.Proofs.Steps Sys2Proof.Proofs.Frames Sys2Proof.Proofs.Blocks

/-! ## What the law reads -/

theorem law_of_tallies {s t : State} (h : tallies t.accounts = tallies s.accounts) (hs : PlateCountLaw s) :
    PlateCountLaw t := by
  simp only [tallies, Prod.mk.injEq] at h
  obtain ⟨⟨hgrade, hdest⟩, hreports⟩ := h
  obtain ⟨hcounts, hstored⟩ := hs
  unfold PlateCountLaw Counts.platesAgree
  rw [hgrade, hdest, hreports]
  exact ⟨hcounts, hstored⟩

theorem platesAgree_zero : Counts.zero.platesAgree := rfl

/-! ## A plate counted -/

theorem law_of_countPlate {p : Plate} {s : State} (hs : PlateCountLaw s) : PlateCountLaw (countPlate p s) := by
  have hadded : PlateCountLaw (s.count (Counts.addPlate p.entry.grade p.cls)) := ⟨addPlate_platesAgree _ _ hs.1, hs.2⟩
  unfold countPlate
  simp only
  split <;> exact hadded

theorem law_of_counted {plates : List Plate} {s : State} (hs : PlateCountLaw s) : PlateCountLaw (counted plates s) := by
  unfold counted
  induction plates generalizing s with
  | nil => exact hs
  | cons p plates ih => exact ih (law_of_countPlate hs)

theorem law_of_closePlates {c : Closing} {s : State} (hs : PlateCountLaw s) : PlateCountLaw (closePlates c s) := by
  have hcounted : PlateCountLaw
      (counted (formed c s).2 (logged (formed c s).2 (routed c (formed c s).2 (formed c s).1))) :=
    law_of_counted (law_of_tallies (tallies_logged c s) hs)
  rw [closePlates_eq]
  refine law_of_tallies ?_ hcounted
  rw [closed_accounts]
  rfl

/-! ## A shift closed -/

theorem law_of_closeShift {time cause : Nat} {s : State} (hs : PlateCountLaw s) :
    PlateCountLaw (closeShift time cause s) := by
  refine ⟨platesAgree_zero, fun r hr => ?_⟩
  rcases List.mem_cons.mp (List.mem_of_mem_take hr) with rfl | hr
  · exact hs.1
  · exact hs.2 r hr

theorem law_of_stepTime {s : State} (hs : PlateCountLaw s) : PlateCountLaw (stepTime s) := by
  have hsecond : ∀ stopped (u : State), PlateCountLaw u → PlateCountLaw (u.count (Counts.addSecond stopped)) :=
    fun stopped u hu => law_of_tallies (by cases stopped <;> rfl) hu
  unfold stepTime accountsStep
  simp only
  split
  · exact law_of_closeShift (hsecond _ _ hs)
  · exact hsecond _ _ hs

/-! ## Every effect -/

theorem change_keeps (s t : State) (h : Change s t) (hs : PlateCountLaw s) : PlateCountLaw t := by
  have hsame : tallies t.accounts = tallies s.accounts → PlateCountLaw t := fun h => law_of_tallies h hs
  cases h with
  | reset => exact ⟨platesAgree_zero, by simp [resetAsserted, State.reset]⟩
  | second => exact law_of_stepTime hs
  | closeShift => exact law_of_closeShift hs
  | opening => exact hsame (by rw [openDecision_accounts])
  | commit c => exact hsame (tallies_commitRow c s)
  | expire c rest => exact hsame (tallies_expireHead c rest s)
  | miss c rest => exact hsame (tallies_missHead c rest s)
  | execute => exact hsame (by rw [executeHead_accounts])
  | span => exact hsame (by rw [addSpan_accounts])
  | detection d => exact hsame (tallies_completeDetection d _)
  | mark m => exact hsame (tallies_completeMark m _)
  | gap first last cause => exact hsame (tallies_completeGap first last cause _)
  | cullet c => exact hsame (tallies_closeCull c s)
  | plates c => exact law_of_closePlates hs
  | entry => exact hsame (by rw [enterMode_accounts])
  | lineClear => exact hsame (by rw [returnToSetup_accounts])
  | restart => exact hsame (by rw [restart_accounts])
  | frame | pulse | tick | stop | setTime | shiftTable | hold | expiryTaken | issue | routesRead | enter | discard
  | dropForFull | statusRead | entryTaken | background | pieceTaken | switch | pattern | orderAdded | orderClosed
  | orderRemoved | sampleAdded | sampleCancelled | recipes | conf => exact hsame rfl

/-- Settles O58: every effect a step can have keeps the counts equal in sum. -/
theorem everyStepKeepsThePlateCountsEqual : Obligations.EveryStepKeepsThePlateCountsEqual :=
  fun _ _ => step_keeps change_keeps

end Sys2Proof.Proofs.PlateCounts
end

section
/-!
The capacities of the lists and the ranges of the counters (R36, R47, R94, R111, R118, R148, R153, R165, R167, R178), block
by block: an append is made only with room, or gives up the oldest.
-/

namespace Sys2Proof.Proofs.Capacity

open Sys2Proof Sys2Proof.Machine Sys2Proof.Proofs.Steps Sys2Proof.Proofs.Frames Sys2Proof.Proofs.Blocks

/-! ## The law, block by block -/

/-- The intake queue and its counters are in range. -/
def IntakeFits (q : Intake) : Prop :=
  q.received ≤ 65535 ∧ q.dropped ≤ 65535 ∧ q.queue.length ≤ 64 ∧ q.highWater ≤ 64

/-- The close queue, the plate log and the next plate id are in range. -/
def GraderFits (g : Grader) : Prop :=
  (1 ≤ g.nextPlate ∧ g.nextPlate ≤ 65535) ∧ g.queue.length ≤ 4 ∧ g.log.length ≤ 64

/-- The order list and the sample list are within their capacities. -/
def TablesFit (p : Production) : Prop := p.orders.length ≤ 16 ∧ p.samples.length ≤ 4

theorem capacityLaw_iff (s : State) :
    CapacityLaw s ↔
      IntakeFits s.intake ∧ GraderFits s.grader ∧ TablesFit s.production ∧ s.planner.rows.length ≤ 18 ∧
        s.dispatcher.routing.length ≤ 32 ∧ s.accounts.reports.length ≤ 4 := by
  unfold CapacityLaw IntakeFits GraderFits TablesFit
  grind

@[simp] theorem intakeFits_idle (q : Intake) : IntakeFits { q with inProcess := none } ↔ IntakeFits q := Iff.rfl

/-- Each block of `t` is in range where that of `s` is; a block not named is the block of `s`. -/
structure BlocksFit (s t : State) : Prop where
  intake : IntakeFits s.intake → IntakeFits t.intake := by intro h; simpa [finishEntry] using h
  grader : GraderFits s.grader → GraderFits t.grader := by intro h; simpa [finishEntry] using h
  tables : TablesFit s.production → TablesFit t.production := by intro h; simpa [finishEntry] using h
  rows : s.planner.rows.length ≤ 18 → t.planner.rows.length ≤ 18 := by intro h; simpa [finishEntry] using h
  routing : s.dispatcher.routing.length ≤ 32 → t.dispatcher.routing.length ≤ 32 := by intro h; simpa [finishEntry] using h
  reports : s.accounts.reports.length ≤ 4 → t.accounts.reports.length ≤ 4 := by intro h; simpa [finishEntry] using h

theorem BlocksFit.law {s t : State} (h : BlocksFit s t) (hs : CapacityLaw s) : CapacityLaw t := by
  obtain ⟨hintake, hgrader, htables, hrows, hrouting, hreports⟩ := (capacityLaw_iff s).mp hs
  exact (capacityLaw_iff t).mpr
    ⟨h.intake hintake, h.grader hgrader, h.tables htables, h.rows hrows, h.routing hrouting, h.reports hreports⟩

/-! ## The intake -/

theorem intakeFits_receive {q : Intake} (h : IntakeFits q) : IntakeFits q.receive := by
  obtain ⟨_, hdropped, hqueue, hhigh⟩ := h
  exact ⟨wrapSucc_le _, hdropped, hqueue, hhigh⟩

theorem intakeFits_push {q : Intake} (h : IntakeFits q) (e : Entry) (hfull : q.full = false) : IntakeFits (q.push e) := by
  obtain ⟨hreceived, hdropped, hqueue, hhigh⟩ := h
  have hroom : q.queue.length < 64 := Nat.lt_of_not_le (of_decide_eq_false hfull)
  have hpushed : (q.push e).queue.length = q.queue.length + 1 := List.length_append
  refine ⟨hreceived, hdropped, by omega, ?_⟩
  exact Nat.max_le.mpr ⟨hhigh, hroom⟩

theorem intakeFits_countDrop {s : State} (h : IntakeFits s.intake) : IntakeFits (countDrop s).intake := by
  obtain ⟨hreceived, hdropped, hqueue, hhigh⟩ := h
  exact ⟨hreceived, bump_le hdropped, hqueue, hhigh⟩

theorem intakeFits_afterRead {q : Intake} (h : IntakeFits q) : IntakeFits q.afterRead := by
  obtain ⟨hreceived, hdropped, hqueue, _⟩ := h
  exact ⟨hreceived, hdropped, hqueue, hqueue⟩

theorem intakeFits_takeOldest {q : Intake} (h : IntakeFits q) : IntakeFits q.takeOldest := by
  unfold Intake.takeOldest
  split
  next e rest _ hqueue =>
    obtain ⟨hreceived, hdropped, hlength, hhigh⟩ := h
    rw [hqueue, List.length_cons] at hlength
    exact ⟨hreceived, hdropped, by simp only; omega, hhigh⟩
  next => exact h

theorem intakeFits_lineClear {q : Intake} (h : IntakeFits q) : IntakeFits q.lineClear := by
  obtain ⟨hreceived, hdropped, _, hhigh⟩ := h
  exact ⟨hreceived, hdropped, Nat.zero_le _, hhigh⟩

/-! ## The grader -/

theorem graderFits_takePlateId {g : Grader} (h : GraderFits g) : GraderFits (takePlateId g) := by
  obtain ⟨_, hqueue, hlog⟩ := h
  exact ⟨wrapSuccOne_mem _, hqueue, hlog⟩

theorem graderFits_formed {c : Closing} {s : State} (h : GraderFits s.grader) : GraderFits (formed c s).1.grader := by
  have key : ∀ (bs : List Blank) (acc : State × List Plate), GraderFits acc.1.grader →
      GraderFits (bs.foldl (formPlate c) acc).1.grader := by
    intro bs
    induction bs with
    | nil => exact fun _ h => h
    | cons b bs ih => exact fun acc h => ih _ (by rw [formPlate_grader]; exact graderFits_takePlateId h)
  exact key c.blanks (s, []) h

theorem graderFits_logPlate {e : PlateEntry} {s : State} (h : GraderFits s.grader) : GraderFits (logPlate e s).grader := by
  obtain ⟨hplate, hqueue, hlog⟩ := h
  refine ⟨hplate, hqueue, ?_⟩
  rw [logPlate_log]
  split
  · simpa using by omega
  · simp
    omega

theorem graderFits_logged {plates : List Plate} {s : State} (h : GraderFits s.grader) :
    GraderFits (logged plates s).grader := by
  unfold logged
  induction plates generalizing s with
  | nil => exact h
  | cons p plates ih => exact ih (graderFits_logPlate h)

theorem graderFits_closePlates {c : Closing} {s : State} (h : GraderFits s.grader) :
    GraderFits (closePlates c s).grader := by
  rw [closePlates_grader]
  have hrouted : (routed c (formed c s).2 (formed c s).1).grader = (formed c s).1.grader :=
    (congrArg State.grader (routed_frame c _ _) :)
  have hlogged : GraderFits (logged (formed c s).2 (routed c (formed c s).2 (formed c s).1)).grader :=
    graderFits_logged (by rw [hrouted]; exact graderFits_formed h)
  exact hlogged

theorem graderFits_handOff {g : Grader} (h : GraderFits g) (p : Piece) (hfull : g.full = false) :
    GraderFits { g with queue := g.queue ++ [p] } := by
  obtain ⟨hplate, _, hlog⟩ := h
  have hroom : g.queue.length < 4 := Nat.lt_of_not_le (of_decide_eq_false hfull)
  exact ⟨hplate, by rw [List.length_append, List.length_singleton]; omega, hlog⟩

/-! ## The tables -/

theorem tablesFit_of_lengths {p q : Production} (horders : lengths q = lengths p)
    (hsamples : q.samples.length ≤ p.samples.length) (h : TablesFit p) : TablesFit q := by
  obtain ⟨ho, hs⟩ := h
  refine ⟨?_, Nat.le_trans hsamples hs⟩
  rw [← lengths_length, horders, lengths_length]
  exact ho

theorem tablesFit_of_eq {p q : Production} (h : lengths q = lengths p ∧ q.samples = p.samples) (hp : TablesFit p) :
    TablesFit q :=
  tablesFit_of_lengths h.1 (Nat.le_of_eq (congrArg List.length h.2)) hp

theorem tablesFit_lineClear {p : Production} (h : TablesFit p) : TablesFit p.lineClear :=
  ⟨by simpa [Production.lineClear] using h.1, Nat.zero_le _⟩

/-! ## The row table, the routing list and the reports -/

theorem rows_of_rowsAfter {p q : Planner} {row : Option Nat} (h : q = { p with rows := rowsAfter row p.rows })
    (hrows : p.rows.length ≤ 18) : q.rows.length ≤ 18 := by
  rw [h]
  exact Nat.le_trans (rowsAfter_length_le row p.rows) hrows

theorem rows_of_closed {p q : Planner} {c : Closing}
    (h : q = if c.cleared then p else { p with rows := rowsAfter c.piece.row p.rows }) (hrows : p.rows.length ≤ 18) :
    q.rows.length ≤ 18 := by
  rw [h]
  split
  · exact hrows
  · exact rows_of_rowsAfter rfl hrows

theorem openDecision_rows (s : State) : (openDecision s).planner.rows = s.planner.rows := by
  unfold openDecision
  simp

theorem orderLeft_rows (id : Nat) (p : Planner) : (p.orderLeft id).rows = p.rows := by
  unfold Planner.orderLeft
  split
  · split <;> rfl
  · rfl

theorem sampleLeft_rows (m : Nat) (p : Planner) : (p.sampleLeft m).rows = p.rows := by
  unfold Planner.sampleLeft
  split
  · split <;> rfl
  · rfl

theorem reports_closeShift (time cause : Nat) (s : State) : (closeShift time cause s).accounts.reports.length ≤ 4 := by
  exact List.length_take_le _ _

theorem reports_stepTime {s : State} (h : s.accounts.reports.length ≤ 4) : (stepTime s).accounts.reports.length ≤ 4 := by
  unfold stepTime accountsStep
  simp only
  split
  · exact reports_closeShift _ _ _
  · exact h

theorem reports_of_tallies {s t : State} (h : tallies t.accounts = tallies s.accounts) :
    s.accounts.reports.length ≤ 4 → t.accounts.reports.length ≤ 4 := by
  have hreports : t.accounts.reports = s.accounts.reports := (congrArg Prod.snd h :)
  rw [hreports]
  exact id

/-! ## Every effect -/

theorem blocksFit_commit {c : Course} {s : State} (hslot : s.planner.hasSlot = true) : BlocksFit s (commitRow c s) where
  rows _ := by
    obtain ⟨hplanner, -, -⟩ := commitRow_spec c s
    have hroom : s.planner.rows.length < 18 := of_decide_eq_true hslot
    rw [hplanner]
    simp only [List.length_append, List.length_singleton]
    omega
  tables :=
    tablesFit_of_lengths (lengths_commitRow c s) (by rw [samples_commitRow]; exact dropDueSample_length_le c _)
  routing h := by
    obtain ⟨-, hdispatcher, -⟩ := commitRow_spec c s
    rw [hdispatcher]
    exact h
  reports := reports_of_tallies (tallies_commitRow c s)

theorem routing_loseHead (c : Cut) (rest : List Cut) (s : State) :
    (loseHead c rest s).dispatcher.routing = s.dispatcher.routing :=
  (congrArg Dispatcher.routing (loseHead_dispatcher c rest s) :)

theorem blocksFit_miss (c : Cut) (rest : List Cut) (s : State) : BlocksFit s (missHead c rest s) where
  rows := rows_of_rowsAfter (loseHead_planner c rest s)
  tables := tablesFit_of_eq (loseHead_production c rest s)
  routing h := by
    have hrouting : (missHead c rest s).dispatcher.routing = s.dispatcher.routing := (routing_loseHead c rest s :)
    rwa [hrouting]
  reports := reports_of_tallies (tallies_missHead c rest s)

theorem blocksFit_expire (c : Cut) (rest : List Cut) (s : State) : BlocksFit s (expireHead c rest s) where
  rows := rows_of_rowsAfter (loseHead_planner c rest s)
  tables := tablesFit_of_eq (loseHead_production c rest s)
  routing h := by
    have hrouting : (expireHead c rest s).dispatcher.routing = s.dispatcher.routing := (routing_loseHead c rest s :)
    rwa [hrouting]
  reports := reports_of_tallies (tallies_expireHead c rest s)

theorem blocksFit_execute {c : Cut} {rest : List Cut} {a : Nat} {s : State} (hfull : s.grader.full = false) :
    BlocksFit s (executeHead c rest a s) where
  grader h := by
    rw [executeHead_grader]
    exact graderFits_handOff h _ hfull
  rows := by
    obtain ⟨row, hplanner⟩ := executeHead_planner c rest a s
    exact rows_of_rowsAfter hplanner
  tables := tablesFit_of_eq (executeHead_production c rest a s)
  routing h := by
    have hrouting : (executeHead c rest a s).dispatcher.routing = s.dispatcher.routing :=
      (congrArg Dispatcher.routing (executeHead_dispatcher c rest a s) :)
    rwa [hrouting]

theorem blocksFit_cullet (c : Closing) (s : State) : BlocksFit s (closeCull c s) where
  grader h := by
    rw [closeCull_grader]
    exact h
  rows := rows_of_closed (closeCull_planner c s)
  routing h := by
    obtain ⟨e, hdispatcher⟩ := closeCull_dispatcher c s
    rw [hdispatcher]
    exact routing_appendRoute_length_le h
  reports := reports_of_tallies (tallies_closeCull c s)

theorem blocksFit_plates (c : Closing) (s : State) : BlocksFit s (closePlates c s) where
  grader := graderFits_closePlates
  rows := rows_of_closed (closePlates_planner c s)
  tables := tablesFit_of_eq (closePlates_production c s)
  routing h := by
    rw [closePlates_dispatcher]
    exact routing_routed_length_le c _ (by rw [formed_dispatcher]; exact h)
  reports h := by rwa [reports_closePlates]

theorem blocksFit_entry (m : Mode) (s : State) : BlocksFit s (enterMode m s) where
  rows h := by
    rw [enterMode_planner]
    exact h
  routing h := by
    rw [enterMode_dispatcher]
    exact h

theorem blocksFit_lineClear {s t : State} (hintake : t.intake = s.intake.lineClear) (hgrader : t.grader = s.grader.lineClear)
    (htables : TablesFit s.production → TablesFit t.production) (hplanner : t.planner = s.planner.lineClear)
    (hdispatcher : t.dispatcher = s.dispatcher.lineClear) (haccounts : t.accounts = s.accounts) : BlocksFit s t where
  intake h := by
    rw [hintake]
    exact intakeFits_lineClear h
  grader h := by
    obtain ⟨hplate, _, hlog⟩ := h
    rw [hgrader]
    exact ⟨hplate, Nat.zero_le _, hlog⟩
  tables := htables
  rows _ := by
    rw [hplanner]
    exact Nat.zero_le _
  routing h := by
    rw [hdispatcher]
    exact h
  reports h := by
    rw [haccounts]
    exact h

theorem change_keeps (s t : State) (h : Change s t) (hs : CapacityLaw s) : CapacityLaw t := by
  have hkeep : BlocksFit s t → CapacityLaw t := fun h => h.law hs
  cases h with
  | reset => exact (capacityLaw_iff _).mpr (by simp [resetAsserted, State.reset, IntakeFits, GraderFits, TablesFit])
  | second => exact hkeep { reports := reports_stepTime }
  | closeShift => exact hkeep ⟨id, id, id, id, id, fun _ => reports_closeShift _ _ s⟩
  | opening => exact hkeep { rows := fun h => by rw [openDecision_rows]; exact h }
  | commit c _ hslot => exact hkeep (blocksFit_commit hslot)
  | expire c rest => exact hkeep (blocksFit_expire c rest s)
  | miss c rest => exact hkeep (blocksFit_miss c rest s)
  | execute c rest a _ hfull => exact hkeep (blocksFit_execute hfull)
  | routesRead => exact hkeep ⟨id, id, id, id, fun h => by simp; omega, id⟩
  | enter e _ hfull =>
    exact hkeep ⟨fun h => intakeFits_push (intakeFits_receive h) e hfull, id, id, id, id, id⟩
  | discard =>
    refine hkeep ⟨fun h => ?_, id, id, id, id, id⟩
    exact intakeFits_countDrop (s := { s with intake := _ }) (intakeFits_receive h)
  | dropForFull =>
    refine hkeep ⟨fun h => ?_, id, id, id, id, id⟩
    exact intakeFits_countDrop (s := { s with intake := _ }) (intakeFits_receive h)
  | span => exact hkeep {}
  | statusRead => exact hkeep ⟨intakeFits_afterRead, id, id, id, id, id⟩
  | entryTaken => exact hkeep ⟨intakeFits_takeOldest, id, id, id, id, id⟩
  | detection d => exact hkeep { reports := reports_of_tallies (tallies_completeDetection d _) }
  | mark m => exact hkeep { reports := reports_of_tallies (tallies_completeMark m _) }
  | gap first last cause => exact hkeep { reports := reports_of_tallies (tallies_completeGap first last cause _) }
  | pieceTaken p rest _ hqueue =>
    refine hkeep ⟨id, fun h => ?_, id, id, id, id⟩
    obtain ⟨hplate, hlength, hlog⟩ := h
    rw [hqueue, List.length_cons] at hlength
    exact ⟨hplate, by simp only; omega, hlog⟩
  | cullet c => exact hkeep (blocksFit_cullet c s)
  | plates c => exact hkeep (blocksFit_plates c s)
  | entry m => exact hkeep (blocksFit_entry m s)
  | lineClear =>
    exact hkeep (blocksFit_lineClear (by simp) (by simp) (by rw [returnToSetup_production]; exact tablesFit_lineClear)
      (by simp) (by simp) (by simp))
  | restart =>
    refine hkeep (blocksFit_lineClear (by simp) (by simp) (fun h => ?_) (by simp) (by simp) (by simp))
    rw [restart_production]
    exact ⟨Nat.zero_le _, Nat.zero_le _⟩
  | orderAdded ws o orders _ hroom horders =>
    refine hkeep ⟨id, id, fun h => ⟨?_, h.2⟩, id, id, id⟩
    have hlength : orders.length = s.production.orders.length + 1 := by
      rcases horders with rfl | rfl
      · exact List.length_append
      · rfl
    exact hlength ▸ hroom
  | orderClosed => exact hkeep ⟨id, id, tablesFit_of_eq ⟨lengths_updateOrder fun _ => rfl, rfl⟩, id, id, id⟩
  | orderRemoved id' =>
    refine hkeep ⟨id, id, fun h => ⟨Nat.le_trans ?_ h.1, h.2⟩, fun h => ?_, id, id⟩
    · exact List.length_eraseP_le
    · simpa [removeOrder, orderLeft_rows] using h
  | sampleAdded m _ hroom =>
    exact hkeep ⟨id, id, fun h => ⟨h.1, (insertOrdered_length _ m _).symm ▸ hroom⟩, id, id, id⟩
  | sampleCancelled m =>
    refine hkeep ⟨id, id, fun h => ⟨h.1, Nat.le_trans List.length_erase_le h.2⟩, fun h => ?_, id, id⟩
    simpa [sampleLeft_rows] using h
  | frame | pulse | tick | stop | setTime | shiftTable | hold | expiryTaken | issue | background | switch | pattern
  | recipes | conf => exact hkeep ⟨id, id, id, id, id, id⟩

/-- Settles O55: every effect a step can have keeps each block within its capacities. -/
theorem everyStepKeepsTheCapacities : Obligations.EveryStepKeepsTheCapacities :=
  fun _ _ => step_keeps change_keeps

end Sys2Proof.Proofs.Capacity
end

section
/-!
SETUP holds nothing of the ribbon, and the switch is legal (the table of section 11.4, R180). Line clear empties every block;
in SETUP no effect fills one again, since each that could is refused in SETUP or needs something of the ribbon to act on.
-/

namespace Sys2Proof.Proofs.Setup

open Sys2Proof Sys2Proof.Machine Sys2Proof.Proofs.Steps Sys2Proof.Proofs.Frames Sys2Proof.Proofs.Blocks

/-! ## The law, block by block -/

def IntakeClear (q : Intake) : Prop := q.queue = [] ∧ q.inProcess = none

def MapClear (m : RibbonMap) : Prop := m.flaws = [] ∧ m.spans = []

def TablesClear (p : Production) : Prop := p.samples = [] ∧ ∀ o ∈ p.orders, o.inFlight = 0

def PlannerClear (p : Planner) : Prop := p.state = .idle ∧ p.course = none ∧ p.rows = []

def CutsClear (d : Dispatcher) : Prop := d.cuts = [] ∧ d.merged = none ∧ d.aLast = none

def ComparesClear (t : Travel) : Prop := t.deadline = none ∧ t.deadlineRaised = none ∧ t.expiry = none

def GraderClear (g : Grader) : Prop := g.queue = [] ∧ ∀ c, g.closing = some c → c.cleared = true

/-- Nothing of the ribbon is held, block by block. -/
structure Clear (s : State) : Prop where
  intake : IntakeClear s.intake
  flaws : s.assembler.openFlaws = []
  map : MapClear s.map
  tables : TablesClear s.production
  planner : PlannerClear s.planner
  cuts : CutsClear s.dispatcher
  compares : ComparesClear s.travel
  grader : GraderClear s.grader

theorem ribbonEmpty_iff (s : State) : RibbonEmpty s ↔ Clear s := by
  constructor
  · rintro ⟨hq, hp, hf, hm, hx, hs, ho, hi, hc, hr, hk, hg, ha, hd, hdr, he, hgq, hgc⟩
    exact ⟨⟨hq, hp⟩, hf, ⟨hm, hx⟩, ⟨hs, ho⟩, ⟨hi, hc, hr⟩, ⟨hk, hg, ha⟩, ⟨hd, hdr, he⟩, ⟨hgq, hgc⟩⟩
  · rintro ⟨⟨hq, hp⟩, hf, ⟨hm, hx⟩, ⟨hs, ho⟩, ⟨hi, hc, hr⟩, ⟨hk, hg, ha⟩, ⟨hd, hdr, he⟩, ⟨hgq, hgc⟩⟩
    exact ⟨hq, hp, hf, hm, hx, hs, ho, hi, hc, hr, hk, hg, ha, hd, hdr, he, hgq, hgc⟩

/-- Both laws: SETUP holds nothing of the ribbon, and the switch is legal. -/
def SetupAndSwitch (s : State) : Prop := SetupLaw s ∧ SwitchLaw s

/-- An effect that leaves the mode and the switch alone keeps both laws when in SETUP it fills no block. -/
theorem keeps_of_clear {s t : State} (hs : SetupAndSwitch s) (hmode : t.mode = s.mode) (hswitch : t.switch = s.switch)
    (hclear : s.mode = .setup → Clear s → Clear t) : SetupAndSwitch t := by
  obtain ⟨hsetup, hlegal⟩ := hs
  refine ⟨fun hm => ?_, ?_⟩
  · rw [hmode] at hm
    exact (ribbonEmpty_iff t).mpr (hclear hm ((ribbonEmpty_iff s).mp (hsetup hm)))
  · unfold SwitchLaw
    rw [hmode, hswitch]
    exact hlegal

/-- A part in a mode other than SETUP with no switch keeps both laws. -/
theorem keeps_of_mode {t : State} (hmode : t.mode ≠ .setup) (hswitch : t.switch = none) : SetupAndSwitch t :=
  ⟨fun h => absurd h hmode, fun m h => by rw [hswitch] at h; cases h⟩

theorem keeps_of_empty {t : State} (hswitch : t.switch = none) (hclear : Clear t) : SetupAndSwitch t :=
  ⟨fun _ => (ribbonEmpty_iff t).mpr hclear, fun m h => by rw [hswitch] at h; cases h⟩

/-! ## Blocks that stay clear -/

theorem clear_pulse {conf : Conf} {t : Travel} (h : ComparesClear t) : ComparesClear (t.pulse conf) := by
  obtain ⟨hdeadline, hraised, hexpiry⟩ := h
  have hpulse : t.pulse conf =
      { t with
        p := (pulseCount t.p t.remainder conf.encoderScale).1
        remainder := (pulseCount t.p t.remainder conf.encoderScale).2
        lastPulse := 0
        stopped := false } := by
    unfold Travel.pulse
    simp only
    rw [raiseDeadline_of_none conf (by exact hdeadline), raiseExpiry_of_none conf (by exact hexpiry)]
  rw [hpulse]
  exact ⟨hdeadline, hraised, hexpiry⟩

theorem clear_takeOldest {q : Intake} (h : IntakeClear q) : IntakeClear q.takeOldest := by
  unfold Intake.takeOldest
  split
  next e rest _ hqueue => rw [h.1] at hqueue; cases hqueue
  next => exact h

theorem clear_release {e : Nat} {m : RibbonMap} (h : MapClear m) : MapClear (m.release e) := by
  obtain ⟨hflaws, hspans⟩ := h
  simp [MapClear, RibbonMap.release, hflaws, hspans]

theorem clear_issue {d : Dispatcher} (h : CutsClear d) : CutsClear d.issue := by
  obtain ⟨hcuts, hmerged, hlast⟩ := h
  simp [CutsClear, Dispatcher.issue, hcuts, hmerged, hlast, updateFirst]

theorem clear_orderLeft {id : Nat} {p : Planner} (h : PlannerClear p) : PlannerClear (p.orderLeft id) := by
  unfold Planner.orderLeft
  rw [h.2.1]
  exact h

theorem clear_sampleLeft {m : Nat} {p : Planner} (h : PlannerClear p) : PlannerClear (p.sampleLeft m) := by
  unfold Planner.sampleLeft
  rw [h.2.1]
  exact h

/-- An update of the order list that reserves no plates. -/
theorem clear_updateOrder {id : Nat} {f : Order → Order} {p : Production} (hf : ∀ o, o.inFlight = 0 → (f o).inFlight = 0)
    (h : TablesClear p) : TablesClear (p.updateOrder id f) := by
  obtain ⟨hsamples, horders⟩ := h
  refine ⟨hsamples, ?_⟩
  rcases updateFirst_eq (fun o : Order => o.id == id) f p.orders with ⟨-, heq⟩ | ⟨before, x, after, hlist, -, -, heq⟩
  · simp only [Production.updateOrder, heq]
    exact horders
  · simp only [Production.updateOrder, heq]
    rw [hlist] at horders
    simp only [List.mem_append, List.mem_cons] at horders ⊢
    rintro o (ho | rfl | ho)
    · exact horders o (Or.inl ho)
    · exact hf x (horders x (Or.inr (Or.inl rfl)))
    · exact horders o (Or.inr (Or.inr ho))

/-- An order that ORD_ADD makes has no plates in flight (R98). -/
theorem orderOf_inFlight {ws : List Word} {s : State} {o : Order} (h : Machine.orderOf ws s = some o) : o.inFlight = 0 := by
  unfold Machine.orderOf at h
  split at h
  · split at h
    · cases h
    · cases h
      rfl
  · cases h

/-! ## A close after the line clear (R155) -/

/-- After a line clear no plate is an order plate. -/
theorem roleAt_of_cleared {c : Closing} (h : c.cleared = true) (column : Nat) : c.roleAt column ≠ .order := by
  unfold Closing.roleAt
  split <;> simp [h]

theorem formPlate_production_of_role {c : Closing} {acc : State × List Plate} {b : Blank} (h : b.role ≠ .order) :
    (formPlate c acc b).1.production = acc.1.production := by
  unfold formPlate
  simp only
  split
  next hrole _ => exact absurd hrole h
  next => rfl

theorem closePlates_production_of_cleared {c : Closing} (h : c.cleared = true) (s : State) :
    (closePlates c s).production = s.production := by
  have key : ∀ (bs : List Blank) (acc : State × List Plate), (∀ b ∈ bs, b.role ≠ .order) →
      (bs.foldl (formPlate c) acc).1.production = acc.1.production := by
    intro bs
    induction bs with
    | nil => exact fun _ _ => rfl
    | cons b bs ih =>
      intro acc hroles
      rw [List.foldl_cons, ih _ fun x hx => hroles x (List.mem_cons_of_mem _ hx)]
      exact formPlate_production_of_role (hroles b List.mem_cons_self)
  rw [closePlates_production_eq]
  refine key c.blanks (s, []) fun b hb => ?_
  simp only [Closing.blanks, List.mem_map] at hb
  obtain ⟨x, -, rfl⟩ := hb
  exact roleAt_of_cleared h _

theorem closing_none_clear {g : Grader} (h : GraderClear g) : GraderClear { g with closing := none } :=
  ⟨h.1, fun c hc => by cases hc⟩

/-- The routing list is no part of the cut queue. -/
theorem cutsClear_of_routing {d d' : Dispatcher}
    (h : { d' with routing := d.routing, routeLost := d.routeLost } = d) (hd : CutsClear d) : CutsClear d' := by
  rw [← h] at hd
  exact hd

theorem clear_closeCull {c : Closing} {s : State} (hclosing : s.grader.closing = some c) (h : Clear s) :
    Clear (closeCull c s) := by
  have hcleared : c.cleared = true := h.grader.2 c hclosing
  obtain ⟨e, hdispatcher⟩ := closeCull_dispatcher c s
  refine ⟨by simpa using h.intake, by simpa using h.flaws, ?_, by simpa using h.tables, ?_, ?_, by simpa using h.compares, ?_⟩
  · rw [closeCull_map]
    exact clear_release h.map
  · rw [closeCull_planner, if_pos hcleared]
    exact h.planner
  · rw [hdispatcher]
    exact cutsClear_of_routing (appendRoute_dispatcher e s) h.cuts
  · rw [closeCull_grader]
    exact closing_none_clear h.grader

theorem clear_closePlates {c : Closing} {s : State} (hclosing : s.grader.closing = some c) (h : Clear s) :
    Clear (closePlates c s) := by
  have hcleared : c.cleared = true := h.grader.2 c hclosing
  refine ⟨by simpa using h.intake, by simpa using h.flaws, ?_, ?_, ?_, ?_, by simpa using h.compares, ?_⟩
  · rw [closePlates_map]
    exact clear_release h.map
  · rw [closePlates_production_of_cleared hcleared]
    exact h.tables
  · rw [closePlates_planner, if_pos hcleared]
    exact h.planner
  · rw [closePlates_dispatcher]
    have hrouted := routed_dispatcher c (formed c s).2 (formed c s).1
    rw [formed_dispatcher] at hrouted
    exact cutsClear_of_routing hrouted h.cuts
  · obtain ⟨hqueue, hidle⟩ := closePlates_queue c s
    exact ⟨hqueue.trans h.grader.1, fun c hc => by rw [hidle] at hc; cases hc⟩

/-! ## Line clear -/

theorem openFlaws_empty : (⟨Vector.replicate 32 none, 0⟩ : FlawTable).openFlaws = [] := by
  rw [List.eq_nil_iff_forall_not_mem]
  intro x hx
  have hslot := mem_openFlaws.mp hx
  simp at hslot

theorem clear_lineClear {s t : State} (hintake : t.intake = s.intake.lineClear)
    (hassembler : t.assembler = ⟨Vector.replicate 32 none, 0⟩) (hmap : t.map = s.map.lineClear s.travel.p)
    (htables : TablesClear t.production) (hplanner : t.planner = s.planner.lineClear)
    (hdispatcher : t.dispatcher = s.dispatcher.lineClear) (htravel : t.travel = s.travel.lineClear)
    (hgrader : t.grader = s.grader.lineClear) : Clear t where
  intake := by rw [hintake]; exact ⟨rfl, rfl⟩
  flaws := by rw [hassembler]; exact openFlaws_empty
  map := by rw [hmap]; exact ⟨rfl, rfl⟩
  tables := htables
  planner := by rw [hplanner]; exact ⟨rfl, rfl, rfl⟩
  cuts := by rw [hdispatcher]; exact ⟨rfl, rfl, rfl⟩
  compares := by rw [htravel]; exact ⟨rfl, rfl, rfl⟩
  grader := by
    rw [hgrader]
    refine ⟨rfl, fun c hc => ?_⟩
    simp only [Grader.lineClear, Option.map_eq_some_iff] at hc
    obtain ⟨c', -, rfl⟩ := hc
    rfl

theorem tablesClear_lineClear (p : Production) : TablesClear p.lineClear := by
  refine ⟨rfl, fun o ho => ?_⟩
  simp only [Production.lineClear, List.mem_map] at ho
  obtain ⟨o', -, rfl⟩ := ho
  rfl

theorem clear_returnToSetup (s : State) : Clear (returnToSetup s) :=
  clear_lineClear (s := s) (by simp) (by simp) (by simp) (by rw [returnToSetup_production]; exact tablesClear_lineClear _)
    (by simp) (by simp) (by simp) (by simp)

theorem clear_restart (s : State) : Clear (restart s) :=
  clear_lineClear (s := s) (by simp) (by simp) (by simp) (by rw [restart_production]; exact ⟨rfl, by simp⟩)
    (by simp) (by simp) (by simp) (by simp)

/-! ## Every effect -/

/-- A decision opens only outside SETUP, and puts the switch in force. -/
theorem keeps_opening {s : State} (harmed : s.planner.state = .armed) (hs : SetupAndSwitch s) :
    SetupAndSwitch (openDecision s) := by
  obtain ⟨hsetup, hlegal⟩ := hs
  have hmode : s.mode ≠ .setup := by
    intro hm
    have hidle := ((ribbonEmpty_iff s).mp (hsetup hm)).planner.1
    rw [harmed] at hidle
    cases hidle
  refine keeps_of_mode ?_ ?_
  · have hopen : (openDecision s).mode = s.switch.getD s.mode := by
      unfold openDecision
      exact takeSwitch_mode _
    rw [hopen]
    cases hswitch : s.switch with
    | none => exact hmode
    | some m => exact (hlegal m hswitch).2.1
  · unfold openDecision
    exact takeSwitch_switch _

theorem keeps_requestSwitch {s : State} {m : Mode} (hmode : s.mode ≠ .setup) (hm : m ≠ .setup) :
    SetupAndSwitch (requestSwitch m s) := by
  refine ⟨fun h => absurd h hmode, fun k hk => ?_⟩
  unfold requestSwitch at hk
  simp only at hk
  split at hk
  · cases hk
  next hne =>
    cases hk
    exact ⟨hmode, hm, fun heq => hne heq.symm⟩

theorem change_keeps (s t : State) (h : Change s t) (hs : SetupAndSwitch s) : SetupAndSwitch t := by
  have hkeep := keeps_of_clear (t := t) hs
  cases h with
  | reset =>
    exact keeps_of_empty rfl
      ⟨⟨rfl, rfl⟩, openFlaws_empty, ⟨rfl, rfl⟩, ⟨rfl, by simp [resetAsserted, State.reset]⟩, ⟨rfl, rfl, rfl⟩,
        ⟨rfl, rfl, rfl⟩, ⟨rfl, rfl, rfl⟩, ⟨rfl, fun c hc => by cases hc⟩⟩
  | pulse =>
    exact hkeep rfl rfl fun _ h => { h with compares := clear_pulse h.compares }
  | second =>
    have hcompares : ComparesClear s.travel → ComparesClear (stepTime s).travel := by
      rw [stepTime_travel]
      exact id
    exact hkeep (by simp) (by simp) fun _ h =>
      ⟨by simpa using h.intake, by simpa using h.flaws, by simpa using h.map, by simpa using h.tables,
        by simpa using h.planner, by simpa using h.cuts, hcompares h.compares, by simpa using h.grader⟩
  | opening harmed => exact keeps_opening harmed hs
  | commit c hcourse =>
    exact hkeep (by simp) (by simp) fun _ h => absurd (h.planner.2.1.symm.trans hcourse) (by simp)
  | hold c hcourse =>
    exact hkeep rfl rfl fun _ h => absurd (h.planner.2.1.symm.trans hcourse) (by simp)
  | expire c rest hcuts =>
    exact hkeep (by simp) (by simp) fun _ h => absurd (h.cuts.1.symm.trans hcuts) (by simp)
  | miss c rest hcuts =>
    exact hkeep (by simp) (by simp) fun _ h => absurd (h.cuts.1.symm.trans hcuts) (by simp)
  | execute c rest a hcuts =>
    exact hkeep (by simp) (by simp) fun _ h => absurd (h.cuts.1.symm.trans hcuts) (by simp)
  | issue => exact hkeep rfl rfl fun _ h => { h with cuts := clear_issue h.cuts }
  | enter e hmode => exact hkeep rfl rfl fun hm _ => absurd hm hmode
  | span first last cause hmode => exact hkeep (by simp) (by simp) fun hm _ => absurd hm hmode
  | entryTaken => exact hkeep rfl rfl fun _ h => { h with intake := clear_takeOldest h.intake }
  | background lane channel level hentry =>
    exact hkeep rfl rfl fun _ h => absurd (h.intake.2.symm.trans hentry) (by simp)
  | detection d hentry =>
    exact hkeep (by simp [finishEntry]) (by simp [finishEntry]) fun _ h =>
      absurd (h.intake.2.symm.trans hentry) (by simp)
  | mark m hentry =>
    exact hkeep (by simp [finishEntry]) (by simp [finishEntry]) fun _ h =>
      absurd (h.intake.2.symm.trans hentry) (by simp)
  | gap first last cause hentry =>
    exact hkeep (by simp [finishEntry]) (by simp [finishEntry]) fun _ h =>
      absurd (h.intake.2.symm.trans hentry) (by simp)
  | pieceTaken p rest _ hqueue =>
    exact hkeep rfl rfl fun _ h => absurd (h.grader.1.symm.trans hqueue) (by simp)
  | cullet c hclosing => exact hkeep (by simp) (by simp) fun _ h => clear_closeCull hclosing h
  | plates c hclosing => exact hkeep (by simp) (by simp) fun _ h => clear_closePlates hclosing h
  | switch m hmode hm => exact keeps_requestSwitch hmode hm
  | entry m _ hm =>
    obtain ⟨hmode, hswitch⟩ := enterMode_mode m s
    exact keeps_of_mode (by rw [hmode]; exact hm) hswitch
  | lineClear => exact keeps_of_empty (by simp) (clear_returnToSetup s)
  | restart => exact keeps_of_empty (by simp) (clear_restart s)
  | orderAdded ws o orders ho _ horders =>
    refine hkeep rfl rfl fun _ h => { h with tables := ⟨h.tables.1, fun x hx => ?_⟩ }
    have hnew := orderOf_inFlight ho
    have hmem : x ∈ s.production.orders ∨ x = o := by
      rcases horders with rfl | rfl
      · simpa [setOrders] using hx
      · simpa [setOrders, or_comm] using hx
    rcases hmem with hx | rfl
    · exact h.tables.2 x hx
    · exact hnew
  | orderClosed id =>
    exact hkeep rfl rfl fun _ h => { h with tables := clear_updateOrder (fun o ho => ho) h.tables }
  | orderRemoved id =>
    exact hkeep rfl rfl fun _ h =>
      { h with
        tables := ⟨h.tables.1, fun x hx => h.tables.2 x (List.mem_of_mem_eraseP hx)⟩
        planner := clear_orderLeft h.planner }
  | sampleAdded m hmode => exact hkeep rfl rfl fun hm _ => absurd hm hmode
  | sampleCancelled m =>
    refine hkeep rfl rfl fun _ h => { h with tables := ⟨?_, h.tables.2⟩, planner := clear_sampleLeft h.planner }
    simp [h.tables.1]
  | frame | tick | stop | setTime | shiftTable | closeShift | expiryTaken | routesRead | discard | dropForFull
  | statusRead | pattern | recipes | conf => exact hkeep rfl rfl fun _ h => { h with }

/-- Settles O59: every effect a step can have keeps SETUP empty and the switch legal. -/
theorem everyStepKeepsSetupEmptyAndTheSwitchLegal : Obligations.EveryStepKeepsSetupEmptyAndTheSwitchLegal :=
  fun _ _ hsetup hswitch => step_keeps change_keeps ⟨hsetup, hswitch⟩

end Sys2Proof.Proofs.Setup
end

section
/-!
The plan in order (R114, R118, R120, R136): rows end to end and at least Cmin long up to the plan start, cuts in order up to it,
and the configuration, the orders and the course of the decision in the ranges these lengths need.
-/

namespace Sys2Proof.Proofs.Plan

open Sys2Proof Sys2Proof.Machine Sys2Proof.Proofs.Steps Sys2Proof.Proofs.Frames Sys2Proof.Proofs.Blocks
open Sys2Proof.Proofs.Setup

/-! ## Lists whose elements are linked -/

theorem linked_map {α β : Type} (f : α → β) (r : β → β → Prop) :
    ∀ xs : List α, linked r (xs.map f) ↔ linked (fun a b => r (f a) (f b)) xs
  | [] => Iff.rfl
  | [_] => Iff.rfl
  | x :: y :: rest => by
    have ih := linked_map f r (y :: rest)
    simp only [List.map_cons, linked] at ih ⊢
    rw [ih]

theorem linked_tail {α : Type} {r : α → α → Prop} {x : α} {xs : List α} (h : linked r (x :: xs)) : linked r xs := by
  cases xs with
  | nil => trivial
  | cons y rest => exact h.2

theorem linked_of_append {α : Type} {r : α → α → Prop} {xs : List α} :
    ∀ before : List α, linked r (before ++ xs) → linked r xs
  | [], h => h
  | _ :: before, h => linked_of_append before (linked_tail h)

theorem linked_append_singleton {α : Type} {r : α → α → Prop} {y : α} :
    ∀ {xs : List α}, linked r xs → (∀ x, xs.getLast? = some x → r x y) → linked r (xs ++ [y])
  | [], _, _ => trivial
  | [x], _, hlast => ⟨hlast x rfl, trivial⟩
  | _ :: z :: rest, h, hlast => ⟨h.1, linked_append_singleton (xs := z :: rest) h.2 fun x hx => hlast x (by simpa using hx)⟩

/-! ## The rows -/

/-- The extents of the rows. -/
def extents (rows : List Row) : List (Nat × Nat) := rows.map fun r => (r.start, r.stop)

/-- Extents end to end, each at least `cmin` long, the last ending at `start`. -/
def EndToEnd (cmin start : Nat) (xs : List (Nat × Nat)) : Prop :=
  linked (fun x y => x.2 = y.1) xs ∧ (∀ x ∈ xs, x.1 + cmin ≤ x.2) ∧ ∀ x, xs.getLast? = some x → x.2 = start

theorem EndToEnd.suffix {cmin start : Nat} {before xs : List (Nat × Nat)} (h : EndToEnd cmin start (before ++ xs)) :
    EndToEnd cmin start xs := by
  obtain ⟨hlinked, hlong, hlast⟩ := h
  refine ⟨linked_of_append before hlinked, fun x hx => hlong x (List.mem_append_right _ hx), fun x hx => hlast x ?_⟩
  rw [List.getLast?_append, hx]
  rfl

theorem EndToEnd.append {cmin start stop : Nat} {xs : List (Nat × Nat)} (h : EndToEnd cmin start xs)
    (hlength : start + cmin ≤ stop) : EndToEnd cmin stop (xs ++ [(start, stop)]) := by
  obtain ⟨hlinked, hlong, hlast⟩ := h
  refine ⟨linked_append_singleton hlinked hlast, fun x hx => ?_, fun x hx => ?_⟩
  · rcases List.mem_append.mp hx with hx | hx
    · exact hlong x hx
    · rw [List.mem_singleton.mp hx]
      exact hlength
  · simp only [List.getLast?_append, List.getLast?_singleton, Option.some_or, Option.some.injEq] at hx
    rw [← hx]

/-- The row law, for the rows and the plan start. -/
def RowsFit (cmin start : Nat) (rows : List Row) : Prop :=
  EndToEnd cmin start (extents rows) ∧ ∀ r, rows.head? = some r → r.left = false

theorem rowLaw_iff (s : State) : RowLaw s ↔ RowsFit s.conf.cmin s.planner.s s.planner.rows := by
  unfold RowLaw RowsFit EndToEnd extents
  rw [linked_map]
  simp only [List.mem_map, forall_exists_index, and_imp, forall_apply_eq_imp_iff₂, List.getLast?_map,
    Option.map_eq_some_iff]
  grind

/-- A removal leaves the last rows of the table, with the extents they had (R118). -/
theorem extents_removeRow (id : Nat) (rows : List Row) : ∃ before, extents rows = before ++ extents (removeRow id rows) := by
  unfold removeRow
  split
  · have hflag : extents (updateFirst (fun r => r.id == id) (fun r => { r with left := true }) rows) = extents rows :=
      map_updateFirst (fun r : Row => r.id == id) (fun r => { r with left := true }) (fun _ => rfl) rows
    rw [← hflag]
    generalize updateFirst _ _ rows = flagged
    refine ⟨extents (flagged.takeWhile Row.left), ?_⟩
    rw [extents, extents, extents, ← List.map_append, List.takeWhile_append_dropWhile]
  · exact ⟨[], rfl⟩

theorem rowsFit_rowsAfter {cmin start : Nat} {rows : List Row} (row : Option Nat) (h : RowsFit cmin start rows) :
    RowsFit cmin start (rowsAfter row rows) := by
  obtain ⟨hends, hhead⟩ := h
  cases row with
  | none => exact ⟨hends, hhead⟩
  | some id =>
    obtain ⟨before, heq⟩ := extents_removeRow id rows
    rw [heq] at hends
    exact ⟨hends.suffix, fun r hr => removeRow_head hhead hr⟩

theorem rowsFit_append {cmin start stop : Nat} {rows : List Row} {row : Row} (h : RowsFit cmin start rows)
    (hstart : row.start = start) (hstop : row.stop = stop) (hleft : row.left = false) (hlength : start + cmin ≤ stop) :
    RowsFit cmin stop (rows ++ [row]) := by
  obtain ⟨hends, hhead⟩ := h
  refine ⟨?_, fun r hr => ?_⟩
  · have happend : extents (rows ++ [row]) = extents rows ++ [(start, stop)] := by simp [extents, hstart, hstop]
    rw [happend]
    exact hends.append hlength
  · cases rows with
    | nil =>
      simp only [List.nil_append, List.head?_cons, Option.some.injEq] at hr
      rw [← hr]
      exact hleft
    | cons x rest => exact hhead r hr

theorem rowsFit_nil (cmin start : Nat) : RowsFit cmin start [] :=
  ⟨⟨trivial, by simp [extents], by simp [extents]⟩, by simp⟩

/-! ## The cuts -/

/-- The cut law, for the cuts and the plan start. -/
def CutsFit (start : Nat) (cuts : List Cut) : Prop :=
  cuts.Pairwise (fun c d => c.target < d.target ∧ (d.state = .issued → c.state = .issued)) ∧
    (∀ c ∈ cuts, c.target ≤ start) ∧ (cuts.countP fun c => c.state == .issued) ≤ 2

theorem cutsFit_nil (start : Nat) : CutsFit start [] := ⟨.nil, by simp, Nat.zero_le _⟩

theorem cutsFit_tail {start : Nat} {c : Cut} {rest : List Cut} (h : CutsFit start (c :: rest)) : CutsFit start rest := by
  obtain ⟨hpairs, htargets, hissued⟩ := h
  refine ⟨(List.pairwise_cons.mp hpairs).2, fun d hd => htargets d (List.mem_cons_of_mem _ hd), ?_⟩
  rw [List.countP_cons] at hissued
  omega

/-- A cut beyond the plan start is appended, QUEUED. -/
theorem cutsFit_append {start stop : Nat} {cuts : List Cut} {c : Cut} (h : CutsFit start cuts) (hbeyond : start < stop)
    (htarget : c.target = stop) (hstate : c.state = .queued) : CutsFit stop (cuts ++ [c]) := by
  obtain ⟨hpairs, htargets, hissued⟩ := h
  refine ⟨?_, ?_, ?_⟩
  · rw [List.pairwise_append]
    refine ⟨hpairs, List.pairwise_singleton _ _, fun x hx y hy => ?_⟩
    rw [List.mem_singleton.mp hy, htarget, hstate]
    exact ⟨Nat.lt_of_le_of_lt (htargets x hx) hbeyond, fun h => by cases h⟩
  · intro x hx
    rcases List.mem_append.mp hx with hx | hx
    · exact Nat.le_trans (htargets x hx) (Nat.le_of_lt hbeyond)
    · rw [List.mem_singleton.mp hx]
      exact Nat.le_of_eq htarget
  · simpa [List.countP_append, hstate] using hissued

/-- The oldest QUEUED cut is issued: every cut before it is ISSUED, and none behind it is. -/
theorem cutsFit_issue {start : Nat} {d : Dispatcher} (h : CutsFit start d.cuts) (hroom : d.issuedCount < 2) :
    CutsFit start d.issue.cuts := by
  unfold Dispatcher.issuedCount at hroom
  rcases updateFirst_eq (fun c : Cut => c.state == .queued) (fun c => { c with state := .issued }) d.cuts with
    ⟨-, heq⟩ | ⟨before, x, after, hlist, hbefore, hx, heq⟩
  · simp only [Dispatcher.issue, heq]
    exact h
  · obtain ⟨hpairs, htargets, hissued⟩ := h
    simp only [Dispatcher.issue, heq]
    have hxq : x.state = .queued := by simpa using hx
    have hissuedBefore : ∀ c ∈ before, c.state = .issued := by
      intro c hc
      have hnot := hbefore c hc
      cases hstate : c.state with
      | queued => simp [hstate] at hnot
      | issued => rfl
    rw [hlist] at hpairs htargets hroom
    rw [List.pairwise_append, List.pairwise_cons] at hpairs
    obtain ⟨hpairsBefore, ⟨hxAfter, hpairsAfter⟩, hcross⟩ := hpairs
    refine ⟨?_, ?_, ?_⟩
    · rw [List.pairwise_append, List.pairwise_cons]
      refine ⟨hpairsBefore, ⟨fun c hc => ⟨(hxAfter c hc).1, fun _ => rfl⟩, hpairsAfter⟩, fun c hc e he => ?_⟩
      rcases List.mem_cons.mp he with rfl | he
      · exact ⟨(hcross c hc x List.mem_cons_self).1, fun _ => hissuedBefore c hc⟩
      · exact hcross c hc e (List.mem_cons_of_mem _ he)
    · intro c hc
      rcases List.mem_append.mp hc with hc | hc
      · exact htargets c (List.mem_append_left _ hc)
      · rcases List.mem_cons.mp hc with rfl | hc
        · exact htargets x (List.mem_append_right _ List.mem_cons_self)
        · exact htargets c (List.mem_append_right _ (List.mem_cons_of_mem _ hc))
    · simp only [List.countP_append, List.countP_cons, hxq] at hroom ⊢
      simp at hroom ⊢
      omega

/-! ## The configuration, the orders and the course -/

/-- The configuration law, for the configuration. -/
def ConfFits (c : Conf) : Prop := ConfigLaw { State.reset with conf := c }

/-- An order's lengths, at least `cmin`. -/
def LengthsFit (cmin : Nat) (x : Nat × Option Nat) : Prop := cmin ≤ x.1 ∧ ∀ n, x.2 = some n → cmin ≤ n

def OrdersFit (cmin : Nat) (p : Production) : Prop := ∀ x ∈ lengths p, LengthsFit cmin x

def CourseFits (cmin : Nat) (course : Option Course) : Prop :=
  ∀ c, course = some (.product c) → LengthsFit cmin (c.lp, c.short)

theorem orderLengthLaw_iff (s : State) : OrderLengthLaw s ↔ OrdersFit s.conf.cmin s.production := by
  simp [OrderLengthLaw, OrdersFit, lengths, LengthsFit]

theorem confFits_bounds {c : Conf} (h : ConfFits c) : 100 ≤ c.cmin ∧ c.cmin ≤ c.cmax ∧ c.cmin ≤ c.ls := by
  obtain ⟨-, -, -, -, -, -, -, -, -, -, -, -, ⟨hcmin, -⟩, ⟨hcmax, -⟩, -, ⟨hls, -⟩, -⟩ := h
  exact ⟨hcmin, hcmax, hls⟩

/-- The ranges of the items that are one number or the net zone. -/
def ScalarsFit (c : Conf) : Prop :=
  (1 ≤ c.encoderScale ∧ c.encoderScale ≤ 65535) ∧ (5000 ≤ c.dCut ∧ c.dCut ≤ 120000) ∧
    (500 ≤ c.dCommit ∧ c.dCommit ≤ 20000) ∧ c.tLate ≤ c.cmin ∧ c.clockSelect ≤ 3 ∧ c.staleDistance ≤ 20000 ∧
    c.ku ≤ 255 ∧ c.kd ≤ 255 ∧ c.joinTol ≤ 31 ∧ c.gapTol ≤ 63 ∧ c.netZone.xl ≤ 8191 ∧ c.netZone.xr ≤ 8191 ∧
    (100 ≤ c.cmin ∧ c.cmin ≤ 2000) ∧ (c.cmin ≤ c.cmax ∧ c.cmax ≤ 6000) ∧ c.cullMargin ≤ 100 ∧
    (c.cmin ≤ c.ls ∧ c.ls ≤ 2000) ∧ (4 ≤ c.q ∧ c.q ≤ 16) ∧ c.tDev ≤ 200

def LanesFit (lanes : Vector Across 12) : Prop := ∀ i : Fin 12, lanes[i].xl ≤ 8191 ∧ lanes[i].xr ≤ 8191

def DestFits (dest : Vector Nat 8) : Prop := ∀ i : Fin 8, dest[i] ≤ 15

theorem confFits_iff (c : Conf) : ConfFits c ↔ ScalarsFit c ∧ LanesFit c.lanes ∧ DestFits c.dest := by
  unfold ConfFits ConfigLaw ScalarsFit LanesFit DestFits
  grind

theorem confFits_default : ConfFits Conf.default := by
  rw [confFits_iff]
  refine ⟨?_, by unfold LanesFit; decide, by unfold DestFits; decide⟩
  simp [ScalarsFit, Conf.default]

theorem lanesFit_set {lanes : Vector Across 12} {a : Across} (h : LanesFit lanes) (ha : a.xl ≤ 8191 ∧ a.xr ≤ 8191)
    (i : Fin 12) : LanesFit (lanes.set i a) := by
  intro j
  by_cases hij : i.val = j.val
  · simpa [Vector.getElem_set, hij] using ha
  · simpa [Vector.getElem_set, hij] using h j

theorem destFits_set {dest : Vector Nat 8} {n : Nat} (h : DestFits dest) (hn : n ≤ 15) (i : Fin 8) :
    DestFits (dest.set i n) := by
  intro j
  by_cases hij : i.val = j.val
  · simpa [Vector.getElem_set, hij] using hn
  · simpa [Vector.getElem_set, hij] using h j

/-- A write that passes the item's own check keeps every item in its range (R26, R114). -/
theorem confFits_store {item : ConfItem} {ws : List Word} {s : State} (h : ConfFits s.conf)
    (hallowed : item.allowed ws s = true) : ConfFits (item.store ws s.conf) := by
  obtain ⟨hscalars, hlanes, hdest⟩ := (confFits_iff _).mp h
  rw [confFits_iff]
  cases item with
  | lane i =>
    refine ⟨hscalars, lanesFit_set hlanes ?_ i, hdest⟩
    simpa [ConfItem.allowed, extentAllowed] using hallowed
  | dest i =>
    refine ⟨hscalars, hlanes, destFits_set hdest ?_ i⟩
    simpa [ConfItem.allowed] using hallowed
  | _ =>
    refine ⟨?_, hlanes, hdest⟩
    simp only [ConfItem.allowed, inRange, cminAllowed, extentAllowed, Bool.and_eq_true, decide_eq_true_eq] at hallowed
    simp only [ScalarsFit, ConfItem.store] at hscalars ⊢
    omega

/-- The configuration outside the destination codes is written in SETUP alone (R25). -/
theorem store_cmin_or_setup {item : ConfItem} {m : Mode} (haccepts : item.accepts m = true) :
    m = .setup ∨ ∀ ws c, (item.store ws c).cmin = c.cmin := by
  cases item with
  | dest i => exact Or.inr fun _ _ => rfl
  | _ => exact Or.inl (by simpa [ConfItem.accepts, onlySetup] using haccepts)

/-- A written Cmin is at most every order's lengths (R114). -/
theorem ordersFit_store {item : ConfItem} {ws : List Word} {s : State} (h : OrdersFit s.conf.cmin s.production)
    (hallowed : item.allowed ws s = true) : OrdersFit (item.store ws s.conf).cmin s.production := by
  cases item with
  | cmin =>
    simp only [ConfItem.allowed, cminAllowed, ordersAllow, Bool.and_eq_true, List.all_eq_true, decide_eq_true_eq]
      at hallowed
    obtain ⟨-, horders⟩ := hallowed
    intro x hx
    simp only [lengths, List.mem_map] at hx
    obtain ⟨o, ho, rfl⟩ := hx
    obtain ⟨hlp, hshort⟩ := horders o ho
    refine ⟨hlp, fun n hn => ?_⟩
    simp only at hn
    show valueAt ws 0 ≤ n
    simpa [hn] using hshort
  | _ => exact h

/-! ## The law, block by block -/

/-- The plan of a part is in order. -/
structure InOrder (s : State) : Prop where
  conf : ConfFits s.conf
  orders : OrdersFit s.conf.cmin s.production
  course : CourseFits s.conf.cmin s.planner.course
  rows : RowsFit s.conf.cmin s.planner.s s.planner.rows
  cuts : CutsFit s.planner.s s.dispatcher.cuts

theorem planLaw_iff (s : State) : PlanLaw s ↔ SetupAndSwitch s ∧ InOrder s := by
  constructor
  · rintro ⟨hswitch, hsetup, hconf, horders, hcourse, hrows, hcuts⟩
    exact ⟨⟨hsetup, hswitch⟩, hconf, (orderLengthLaw_iff s).mp horders, hcourse, (rowLaw_iff s).mp hrows, hcuts⟩
  · rintro ⟨⟨hsetup, hswitch⟩, hconf, horders, hcourse, hrows, hcuts⟩
    exact ⟨hswitch, hsetup, hconf, (orderLengthLaw_iff s).mpr horders, hcourse, (rowLaw_iff s).mpr hrows, hcuts⟩

/-- `t` has the configuration, the orders' lengths and the plan start of `s`, and blocks in order where those of `s` are. -/
structure Kept (s t : State) : Prop where
  conf : t.conf = s.conf := by simp [finishEntry]
  orders : lengths t.production = lengths s.production := by simp [finishEntry]
  start : t.planner.s = s.planner.s := by simp [finishEntry]
  course : ∀ cmin, CourseFits cmin s.planner.course → CourseFits cmin t.planner.course := by simp [finishEntry]
  rows : ∀ cmin start, RowsFit cmin start s.planner.rows → RowsFit cmin start t.planner.rows := by simp [finishEntry]
  cuts : ∀ start, CutsFit start s.dispatcher.cuts → CutsFit start t.dispatcher.cuts := by simp [finishEntry]

theorem Kept.inOrder {s t : State} (h : Kept s t) (hs : InOrder s) : InOrder t where
  conf := by rw [h.conf]; exact hs.conf
  orders := by unfold OrdersFit; rw [h.conf, h.orders]; exact hs.orders
  course := by rw [h.conf]; exact h.course _ hs.course
  rows := by rw [h.conf, h.start]; exact h.rows _ _ hs.rows
  cuts := by rw [h.start]; exact h.cuts _ hs.cuts

/-! ## The commit -/

/-- Every row that is decided is at least Cmin long. -/
theorem decidedRow_stop {s : State} (hs : InOrder s) {c : Course} (hcourse : s.planner.course = some c) :
    s.planner.s + s.conf.cmin ≤ (decidedRow s c).stop := by
  obtain ⟨-, hcmax, hls⟩ := confFits_bounds hs.conf
  cases c with
  | sample m present => exact Nat.add_le_add_left hls _
  | cullMode => exact Nat.add_le_add_left hcmax _
  | noOrder => exact Nat.add_le_add_left hcmax _
  | product c =>
    obtain ⟨hlp, hshort⟩ := hs.course c hcourse
    simp only [decidedRow, productRow]
    split
    · exact Nat.add_le_add_left hcmax _
    · split
      · exact Nat.add_le_add_left hlp _
      · split
        next hfits => exact Nat.add_le_add_left (hshort _ (shortFits_spec hfits).1) _
        next =>
          obtain ⟨-, -, -, hlong, -⟩ := chainRow_spec s _ _ hcmax
          exact hlong

theorem inOrder_commit {s : State} (hs : InOrder s) {c : Course} (hcourse : s.planner.course = some c) :
    InOrder (commitRow c s) := by
  have hlong := decidedRow_stop hs hcourse
  obtain ⟨hcmin, -, -⟩ := confFits_bounds hs.conf
  obtain ⟨hplanner, hdispatcher, -⟩ := commitRow_spec c s
  refine ⟨?_, ?_, ?_, ?_, ?_⟩
  · rw [commitRow_conf]
    exact hs.conf
  · unfold OrdersFit
    rw [commitRow_conf, lengths_commitRow]
    exact hs.orders
  · rw [hplanner]
    exact fun c hc => by cases hc
  · rw [commitRow_conf, hplanner]
    exact rowsFit_append hs.rows rfl rfl rfl hlong
  · rw [hplanner, hdispatcher]
    refine cutsFit_append hs.cuts (?_ : s.planner.s < (decidedRow s c).stop) rfl rfl
    omega

/-! ## The opening -/

theorem openDecision_planner (s : State) :
    ∃ c, (openDecision s).planner = { s.planner with state := .deciding, course := some c } ∧
      ∀ o, c = .product o → ∃ x ∈ s.production.orders, o = x.course := by
  refine ⟨(takeSwitch { s with travel := { s.travel with deadlineRaised := none } }).courseAt s.planner.s, ?_,
    fun o ho => ?_⟩
  · unfold openDecision
    simp
  unfold State.courseAt at ho
  rw [takeSwitch_production] at ho
  split at ho
  · cases ho
  · split at ho
    · cases ho
    · split at ho
      next x hx =>
        cases ho
        obtain ⟨-, before, after, hlist, -⟩ := (activeOrder_eq_some_iff _ x).mp hx
        have horders : s.production.orders = before ++ x :: after := hlist
        exact ⟨x, by simp [horders], rfl⟩
      next => cases ho

theorem inOrder_opening {s : State} (hs : InOrder s) : InOrder (openDecision s) := by
  obtain ⟨c, hplanner, hproduct⟩ := openDecision_planner s
  refine ⟨?_, ?_, ?_, ?_, ?_⟩
  · rw [openDecision_conf]
    exact hs.conf
  · rw [openDecision_conf, openDecision_production]
    exact hs.orders
  · rw [openDecision_conf, hplanner]
    intro o ho
    obtain ⟨x, hx, rfl⟩ := hproduct o (Option.some.inj ho)
    exact hs.orders _ (List.mem_map_of_mem hx)
  · rw [openDecision_conf, hplanner]
    exact hs.rows
  · rw [openDecision_dispatcher, hplanner]
    exact hs.cuts

/-! ## Lost, reported and closed pieces -/

theorem kept_of_rows {s t : State} {row : Option Nat} (hconf : t.conf = s.conf)
    (horders : lengths t.production = lengths s.production)
    (hplanner : t.planner = { s.planner with rows := rowsAfter row s.planner.rows })
    (hcuts : ∀ start, CutsFit start s.dispatcher.cuts → CutsFit start t.dispatcher.cuts) : Kept s t where
  conf := hconf
  orders := horders
  start := by rw [hplanner]
  course _ h := by rw [hplanner]; exact h
  rows _ _ h := by rw [hplanner]; exact rowsFit_rowsAfter row h
  cuts := hcuts

theorem kept_of_closed {s t : State} {c : Closing} (hconf : t.conf = s.conf)
    (horders : lengths t.production = lengths s.production)
    (hplanner : t.planner =
      if c.cleared then s.planner else { s.planner with rows := rowsAfter c.piece.row s.planner.rows })
    (hcuts : t.dispatcher.cuts = s.dispatcher.cuts) : Kept s t := by
  have hsame : ∀ start, CutsFit start s.dispatcher.cuts → CutsFit start t.dispatcher.cuts := by
    rw [hcuts]
    exact fun _ => id
  cases hcleared : c.cleared with
  | true => exact kept_of_rows (row := none) hconf horders (by rw [hplanner, if_pos hcleared]; rfl) hsame
  | false => exact kept_of_rows (row := c.piece.row) hconf horders (by simp [hplanner, hcleared]) hsame

/-! ## Line clear, mode entry and the configuration -/

theorem inOrder_of_empty {t : State} (hconf : ConfFits t.conf) (horders : OrdersFit t.conf.cmin t.production)
    (hcourse : t.planner.course = none) (hrows : t.planner.rows = []) (hcuts : t.dispatcher.cuts = []) : InOrder t where
  conf := hconf
  orders := horders
  course := by rw [hcourse]; exact fun c hc => by cases hc
  rows := by rw [hrows]; exact rowsFit_nil _ _
  cuts := by rw [hcuts]; exact cutsFit_nil _

theorem lengths_lineClear (p : Production) : lengths p.lineClear = lengths p := by
  simp [lengths, Production.lineClear, Function.comp_def]

theorem inOrder_entry {s : State} (m : Mode) (hs : InOrder s) (hclear : Clear s) : InOrder (enterMode m s) := by
  obtain ⟨-, hcourse, hrows⟩ := hclear.planner
  obtain ⟨hcuts, -, -⟩ := hclear.cuts
  refine ⟨?_, ?_, ?_, ?_, ?_⟩
  · rw [enterMode_conf]
    exact hs.conf
  · rw [enterMode_conf, enterMode_production]
    exact hs.orders
  · rw [enterMode_planner]
    simp only
    rw [hcourse]
    exact fun c hc => by cases hc
  · rw [enterMode_planner]
    simp only
    rw [hrows]
    exact rowsFit_nil _ _
  · rw [enterMode_planner, enterMode_dispatcher]
    simp only
    rw [hcuts]
    exact ⟨List.pairwise_singleton _ _, by simp, by simp⟩

theorem inOrder_conf {item : ConfItem} {ws : List Word} {s : State} (hs : InOrder s) (hsetup : SetupAndSwitch s)
    (haccepts : item.accepts s.mode = true) (hallowed : item.allowed ws s = true) : InOrder (item.write ws s) := by
  rcases store_cmin_or_setup haccepts with hmode | hcmin
  · have hclear := (ribbonEmpty_iff s).mp (hsetup.1 hmode)
    obtain ⟨-, hcourse, hrows⟩ := hclear.planner
    exact inOrder_of_empty (confFits_store hs.conf hallowed) (ordersFit_store hs.orders hallowed) hcourse hrows
      hclear.cuts.1
  · have hsame : (item.store ws s.conf).cmin = s.conf.cmin := hcmin ws s.conf
    refine ⟨confFits_store hs.conf hallowed, ordersFit_store hs.orders hallowed, ?_, ?_, hs.cuts⟩
    · show CourseFits (item.store ws s.conf).cmin s.planner.course
      rw [hsame]
      exact hs.course
    · show RowsFit (item.store ws s.conf).cmin s.planner.s s.planner.rows
      rw [hsame]
      exact hs.rows

/-! ## Orders and samples -/

theorem orderOf_lengths {ws : List Word} {s : State} {o : Order} (h : Machine.orderOf ws s = some o) :
    LengthsFit s.conf.cmin (o.lp, o.short) := by
  unfold Machine.orderOf at h
  split at h
  · split at h
    · cases h
    next hin =>
      cases h
      simp only [not_or, Nat.not_lt, Bool.not_eq_true', Bool.not_eq_false] at hin
      obtain ⟨-, hlp, -, hshort, -, -⟩ := hin
      refine ⟨hlp, fun n hn => ?_⟩
      simp only [shortLength] at hn
      split at hn
      · cases hn
      next hne =>
        cases hn
        simp only [shortInRange, Bool.or_eq_true, beq_iff_eq, Bool.and_eq_true, decide_eq_true_eq] at hshort
        omega
  · cases h

theorem orderLeft_kept (id : Nat) (p : Planner) :
    (p.orderLeft id).s = p.s ∧ (p.orderLeft id).rows = p.rows ∧
      ∀ cmin, CourseFits cmin p.course → CourseFits cmin (p.orderLeft id).course := by
  unfold Planner.orderLeft
  split
  next c hcourse =>
    split
    · refine ⟨rfl, rfl, fun cmin h o ho => ?_⟩
      cases ho
      exact h c hcourse
    · exact ⟨rfl, rfl, fun _ h => h⟩
  next => exact ⟨rfl, rfl, fun _ h => h⟩

theorem sampleLeft_kept (m : Nat) (p : Planner) :
    (p.sampleLeft m).s = p.s ∧ (p.sampleLeft m).rows = p.rows ∧
      ∀ cmin, CourseFits cmin p.course → CourseFits cmin (p.sampleLeft m).course := by
  unfold Planner.sampleLeft
  split
  · split
    · exact ⟨rfl, rfl, fun _ _ o ho => by cases ho⟩
    · exact ⟨rfl, rfl, fun _ h => h⟩
  · exact ⟨rfl, rfl, fun _ h => h⟩

theorem inOrder_of_orders {s t : State} (hs : InOrder s) (hconf : t.conf = s.conf)
    (horders : ∀ x ∈ lengths t.production, x ∈ lengths s.production ∨ LengthsFit s.conf.cmin x)
    (hplanner : t.planner.s = s.planner.s ∧ t.planner.rows = s.planner.rows ∧
      ∀ cmin, CourseFits cmin s.planner.course → CourseFits cmin t.planner.course)
    (hcuts : t.dispatcher.cuts = s.dispatcher.cuts) : InOrder t := by
  obtain ⟨hstart, hrows, hcourse⟩ := hplanner
  refine ⟨?_, ?_, ?_, ?_, ?_⟩
  · rw [hconf]
    exact hs.conf
  · rw [hconf]
    exact fun x hx => (horders x hx).elim (hs.orders x) id
  · rw [hconf]
    exact hcourse _ hs.course
  · rw [hconf, hstart, hrows]
    exact hs.rows
  · rw [hstart, hcuts]
    exact hs.cuts

/-! ## Every effect -/

theorem change_inOrder {s t : State} (h : Change s t) (hsetup : SetupAndSwitch s) (hs : InOrder s) : InOrder t := by
  have hkeep : Kept s t → InOrder t := fun h => h.inOrder hs
  cases h with
  | reset =>
    exact inOrder_of_empty confFits_default (fun x hx => by cases hx) rfl rfl rfl
  | second => exact hkeep {}
  | opening => exact inOrder_opening hs
  | commit c hcourse => exact inOrder_commit hs hcourse
  | expire c rest hcuts =>
    refine hkeep (kept_of_rows (by simp) (loseHead_production c rest s).1 (loseHead_planner c rest s) fun _ h => ?_)
    rw [hcuts] at h
    have hrest : (expireHead c rest s).dispatcher.cuts = rest := loseHead_cuts c rest s
    rw [hrest]
    exact cutsFit_tail h
  | miss c rest hcuts =>
    refine hkeep (kept_of_rows (by simp) (loseHead_production c rest s).1 (loseHead_planner c rest s) fun _ h => ?_)
    rw [hcuts] at h
    have hrest : (missHead c rest s).dispatcher.cuts = rest := loseHead_cuts c rest s
    rw [hrest]
    exact cutsFit_tail h
  | execute c rest a hcuts =>
    obtain ⟨row, hplanner⟩ := executeHead_planner c rest a s
    refine hkeep (kept_of_rows (by simp) (executeHead_production c rest a s).1 hplanner fun _ h => ?_)
    rw [hcuts] at h
    rw [(executeHead_spec c rest a s).1]
    exact cutsFit_tail h
  | issue hroom => exact hkeep ⟨rfl, rfl, rfl, fun _ h => h, fun _ _ h => h, fun _ h => cutsFit_issue h hroom⟩
  | span => exact hkeep {}
  | detection => exact hkeep {}
  | mark => exact hkeep {}
  | gap => exact hkeep {}
  | cullet c =>
    obtain ⟨e, hdispatcher⟩ := closeCull_dispatcher c s
    refine hkeep (kept_of_closed (by simp) (by simp) (closeCull_planner c s) ?_)
    rw [hdispatcher]
    exact (congrArg Dispatcher.cuts (appendRoute_dispatcher e s) :)
  | plates c =>
    refine hkeep (kept_of_closed (by simp) (closePlates_production c s).1 (closePlates_planner c s) ?_)
    rw [closePlates_dispatcher, ← formed_dispatcher c s]
    exact (congrArg Dispatcher.cuts (routed_dispatcher c _ _) :)
  | entry m hmode =>
    exact inOrder_entry m hs ((ribbonEmpty_iff s).mp (hsetup.1 hmode))
  | lineClear =>
    refine inOrder_of_empty (by rw [returnToSetup_conf]; exact hs.conf) ?_ (by simp [Planner.lineClear])
      (by simp [Planner.lineClear]) (by simp [Dispatcher.lineClear])
    unfold OrdersFit
    rw [returnToSetup_conf, returnToSetup_production, lengths_lineClear]
    exact hs.orders
  | restart =>
    refine inOrder_of_empty (by rw [restart_conf]; exact hs.conf) ?_ (by simp [Planner.lineClear])
      (by simp [Planner.lineClear]) (by simp [Dispatcher.lineClear])
    rw [restart_production]
    exact fun x hx => by cases hx
  | orderAdded ws o orders ho _ horders =>
    refine inOrder_of_orders hs rfl (fun x hx => ?_) ⟨rfl, rfl, fun _ h => h⟩ rfl
    have hmem : x ∈ lengths s.production ∨ x = (o.lp, o.short) := by
      rcases horders with rfl | rfl
      · simpa [lengths, setOrders] using hx
      · simpa [lengths, setOrders, or_comm] using hx
    rcases hmem with hx | rfl
    · exact Or.inl hx
    · exact Or.inr (orderOf_lengths ho)
  | orderClosed => exact hkeep ⟨rfl, lengths_updateOrder fun _ => rfl, rfl, fun _ h => h, fun _ _ h => h, fun _ h => h⟩
  | orderRemoved id =>
    refine inOrder_of_orders hs rfl (fun x hx => Or.inl ?_) (orderLeft_kept id s.planner) rfl
    simp only [lengths, removeOrder, List.mem_map] at hx ⊢
    obtain ⟨o, ho, rfl⟩ := hx
    exact ⟨o, List.mem_of_mem_eraseP ho, rfl⟩
  | sampleCancelled m =>
    exact inOrder_of_orders hs rfl (fun x hx => Or.inl hx) (sampleLeft_kept m s.planner) rfl
  | conf item ws haccepts hallowed => exact inOrder_conf hs hsetup haccepts hallowed
  | frame | pulse | tick | stop | setTime | shiftTable | closeShift | hold | expiryTaken | routesRead | enter | discard
  | dropForFull | statusRead | entryTaken | background | pieceTaken | switch | pattern | sampleAdded | recipes =>
    exact hkeep ⟨rfl, rfl, rfl, fun _ h => h, fun _ _ h => h, fun _ h => h⟩

theorem change_keeps (s t : State) (h : Change s t) (hs : PlanLaw s) : PlanLaw t := by
  obtain ⟨hsetup, horder⟩ := (planLaw_iff s).mp hs
  exact (planLaw_iff t).mpr ⟨Setup.change_keeps s t h hsetup, change_inOrder h hsetup horder⟩

/-- Settles O60: every effect a step can have keeps the plan in order. -/
theorem everyStepKeepsThePlanInOrder : Obligations.EveryStepKeepsThePlanInOrder :=
  fun _ _ => step_keeps change_keeps

end Sys2Proof.Proofs.Plan
end

section
/-!
The flaw map (R81 to R84, R90): in order, its numbers distinct and in range, within its capacity, and no record behind
E_closed. A map of fewer than 65,536 records holds a free number within as many tries as it has records.
-/

namespace Sys2Proof.Proofs.FlawMap

open Sys2Proof Sys2Proof.Machine Sys2Proof.Proofs.Steps Sys2Proof.Proofs.Frames

/-! ## Insertion into an ordered list -/

/-- An element put before the first it precedes stands in order, where what it precedes stands behind it and the rest before
it. -/
theorem pairwise_insertOrdered {α : Type} {r : α → α → Prop} {precedes : α → α → Bool} {x : α} {xs : List α}
    (hxs : xs.Pairwise r) (hbefore : ∀ y ∈ xs, precedes x y = false → r y x)
    (hafter : ∀ y ∈ xs, precedes x y = true → r x y)
    (htrans : ∀ y ∈ xs, ∀ z ∈ xs, r x y → r y z → r x z) : (insertOrdered precedes x xs).Pairwise r := by
  obtain ⟨before, after, hlist, heq, hnot, hhead⟩ := insertOrdered_eq_append precedes x xs
  rw [heq]
  have hmemBefore : ∀ y ∈ before, y ∈ xs := fun y hy => by rw [hlist]; exact List.mem_append_left _ hy
  have hmemAfter : ∀ y ∈ after, y ∈ xs := fun y hy => by rw [hlist]; exact List.mem_append_right _ hy
  rw [hlist, List.pairwise_append] at hxs
  obtain ⟨hpairsBefore, hpairsAfter, hcross⟩ := hxs
  have hxAfter : ∀ y ∈ after, r x y := by
    cases after with
    | nil => simp
    | cons z rest =>
      have hz : r x z := hafter z (hmemAfter z List.mem_cons_self) (hhead z rfl)
      intro y hy
      rcases List.mem_cons.mp hy with rfl | hy
      · exact hz
      · exact htrans z (hmemAfter z List.mem_cons_self) y (hmemAfter y (List.mem_cons_of_mem _ hy)) hz
          ((List.pairwise_cons.mp hpairsAfter).1 y hy)
  rw [List.pairwise_append, List.pairwise_cons]
  refine ⟨hpairsBefore, ⟨hxAfter, hpairsAfter⟩, fun y hy z hz => ?_⟩
  rcases List.mem_cons.mp hz with rfl | hz
  · exact hbefore y (hmemBefore y hy) (hnot y hy)
  · exact hcross y hy z hz

/-! ## A free number (R82) -/

theorem carriesNumber_iff {flaws : List FlawRecord} {n : Nat} :
    carriesNumber flaws n = true ↔ ∃ f ∈ flaws, f.number = n := by
  simp [carriesNumber]

/-- A list that holds `n` distinct values has at least `n` members. -/
theorem le_length_of_distinct {f : Nat → Nat} :
    ∀ (n : Nat) (xs : List Nat), (∀ i, i < n → f i ∈ xs) → (∀ i j, i < n → j < n → f i = f j → i = j) → n ≤ xs.length
  | 0, _, _, _ => Nat.zero_le _
  | n + 1, xs, hmember, hdistinct => by
    have hlast : f n ∈ xs := hmember n (Nat.lt_succ_self n)
    have hothers : n ≤ (xs.erase (f n)).length := by
      refine le_length_of_distinct n (xs.erase (f n)) (fun i hi => ?_) fun i j hi hj => hdistinct i j (by omega) (by omega)
      have hne : f i ≠ f n := fun heq => by
        have := hdistinct i n (by omega) (by omega) heq
        omega
      exact (List.mem_erase_of_ne hne).mpr (hmember i (by omega))
    have hlength := List.length_erase_of_mem hlast
    have hpositive := List.length_pos_of_mem hlast
    omega

/-- As many records as numbers in a row: `k` records cannot carry `k + 1` numbers of the 65,536. -/
theorem numbers_le_records {flaws : List FlawRecord} {start k : Nat} (hk : k ≤ 65535)
    (h : ∀ i, i ≤ k → carriesNumber flaws ((start + i) % 65536) = true) : k < flaws.length := by
  have hmember : ∀ i, i < k + 1 → (start + i) % 65536 ∈ flaws.map FlawRecord.number := by
    intro i hi
    obtain ⟨f, hf, hnumber⟩ := carriesNumber_iff.mp (h i (Nat.le_of_lt_succ hi))
    exact List.mem_map.mpr ⟨f, hf, hnumber⟩
  have hcount := le_length_of_distinct (k + 1) (flaws.map FlawRecord.number) hmember fun i j hi hj hij => by omega
  rw [List.length_map] at hcount
  exact hcount

/-- The number a flaw takes is free: the first one from the numbering counter on that no record carries (R82). -/
theorem firstFreeNumber_free {flaws : List FlawRecord} {start : Nat} (hstart : start ≤ 65535)
    (hlength : flaws.length ≤ 65535) :
    ∃ k, firstFreeNumber flaws flaws.length start = (start + k) % 65536 ∧
      carriesNumber flaws ((start + k) % 65536) = false ∧ ∀ i, i < k → carriesNumber flaws ((start + i) % 65536) = true := by
  obtain ⟨k, hk, hfirst, hcarried, hfree⟩ := firstFreeNumber_spec flaws flaws.length start hstart
  refine ⟨k, hfirst, ?_, hcarried⟩
  rcases Nat.lt_or_ge k flaws.length with hlt | hge
  · exact hfree hlt
  · refine Bool.eq_false_iff.mpr fun hc => ?_
    have hall : ∀ i, i ≤ k → carriesNumber flaws ((start + i) % 65536) = true := by
      intro i hi
      rcases Nat.lt_or_eq_of_le hi with hi | rfl
      · exact hcarried i hi
      · exact hc
    have := numbers_le_records (by omega) hall
    omega

/-! ## The law of the map -/

/-- Map order (R81). -/
def InMapOrder (f g : FlawRecord) : Prop :=
  f.firstRow < g.firstRow ∨ (f.firstRow = g.firstRow ∧ f.number < g.number)

theorem precedes_iff {f g : FlawRecord} : f.precedes g = true ↔ InMapOrder f g := by
  simp [FlawRecord.precedes, InMapOrder]

theorem inMapOrder_of_not {f g : FlawRecord} (h : f.precedes g = false) (hne : f.number ≠ g.number) : InMapOrder g f := by
  have hnot : ¬InMapOrder f g := fun hfg => by rw [precedes_iff.mpr hfg] at h; cases h
  unfold InMapOrder at *
  omega

theorem inMapOrder_trans {f g h : FlawRecord} (hfg : InMapOrder f g) (hgh : InMapOrder g h) : InMapOrder f h := by
  unfold InMapOrder at *
  omega

/-- The flaw map law, for the map. -/
structure MapFits (m : RibbonMap) : Prop where
  length : m.flaws.length ≤ 768
  next : m.nextNumber ≤ 65535
  records : ∀ f ∈ m.flaws, f.number ≤ 65535 ∧ m.eClosed ≤ f.lastRow
  distinct : m.flaws.Pairwise fun f g => f.number ≠ g.number
  ordered : m.flaws.Pairwise InMapOrder

theorem flawMapLaw_iff (s : State) : FlawMapLaw s ↔ MapFits s.map :=
  ⟨fun ⟨hl, hn, hr, hd, ho⟩ => ⟨hl, hn, hr, hd, ho⟩, fun ⟨hl, hn, hr, hd, ho⟩ => ⟨hl, hn, hr, hd, ho⟩⟩

/-- The law reads the records, the numbering counter and E_closed alone. -/
theorem MapFits.congr {m n : RibbonMap} (h : MapFits m) (hflaws : n.flaws = m.flaws) (hnext : n.nextNumber = m.nextNumber)
    (hclosed : n.eClosed = m.eClosed) : MapFits n := by
  obtain ⟨hl, hn, hr, hd, ho⟩ := h
  exact ⟨by rw [hflaws]; exact hl, by rw [hnext]; exact hn, by rw [hflaws, hclosed]; exact hr, by rw [hflaws]; exact hd,
    by rw [hflaws]; exact ho⟩

/-- Records may leave the map. -/
theorem MapFits.sublist {m : RibbonMap} (h : MapFits m) {flaws : List FlawRecord} (hsub : flaws.Sublist m.flaws) :
    MapFits { m with flaws := flaws } where
  length := Nat.le_trans hsub.length_le h.length
  next := h.next
  records f hf := h.records f (hsub.subset hf)
  distinct := h.distinct.sublist hsub
  ordered := h.ordered.sublist hsub

theorem MapFits.release {m : RibbonMap} (h : MapFits m) (e : Nat) : MapFits (m.release e) where
  length := Nat.le_trans (List.length_filter_le _ _) h.length
  next := h.next
  records f hf := by
    obtain ⟨hmem, hkept⟩ := List.mem_filter.mp hf
    exact ⟨(h.records f hmem).1, by simpa [RibbonMap.release] using hkept⟩
  distinct := h.distinct.sublist List.filter_sublist
  ordered := h.ordered.sublist List.filter_sublist

theorem mapFits_nil {m : RibbonMap} (hflaws : m.flaws = []) (hnext : m.nextNumber ≤ 65535) : MapFits m := by
  refine ⟨?_, hnext, ?_, ?_, ?_⟩ <;> rw [hflaws]
  · exact Nat.zero_le _
  · simp
  · exact .nil
  · exact .nil

/-- A flaw stored into a map with room takes a free number and its place in the order (R82, R83). -/
theorem MapFits.store {m : RibbonMap} (h : MapFits m) {f : FlawRecord} (hroom : m.flaws.length < 768)
    (hlast : m.eClosed ≤ f.lastRow) : MapFits (m.store f) := by
  obtain ⟨k, hfirst, hfree, -⟩ := firstFreeNumber_free (flaws := m.flaws) h.next (by omega)
  unfold RibbonMap.store
  simp only
  rw [hfirst]
  have hnew : ∀ g ∈ m.flaws, (m.nextNumber + k) % 65536 ≠ g.number := by
    intro g hg heq
    have hcarried := carriesNumber_iff.mpr ⟨g, hg, heq.symm⟩
    rw [hfree] at hcarried
    cases hcarried
  have hperm := insertOrdered_perm FlawRecord.precedes { f with number := (m.nextNumber + k) % 65536 } m.flaws
  refine ⟨?_, wrapSucc_le _, ?_, ?_, ?_⟩
  · simp only [insertOrdered_length]
    omega
  · intro g hg
    rcases (mem_insertOrdered _ _ _ _).mp hg with rfl | hg
    · exact ⟨by simp only; omega, hlast⟩
    · exact h.records g hg
  · rw [hperm.pairwise_iff fun hne => hne.symm, List.pairwise_cons]
    exact ⟨hnew, h.distinct⟩
  · refine pairwise_insertOrdered h.ordered (fun g hg hnot => ?_) (fun g _ hpre => precedes_iff.mp hpre)
      (fun _ _ _ _ => inMapOrder_trans)
    exact inMapOrder_of_not hnot (hnew g hg)

theorem mapFits_addSpan {s : State} (h : MapFits s.map) (first last : Nat) (cause : SpanCause) :
    MapFits (addSpan first last cause s).map := h.congr (by simp) (by simp) (by simp)

theorem mapFits_handOver {f : FlawRecord} {s : State} (h : MapFits s.map) (hlast : s.map.eClosed ≤ f.lastRow) :
    MapFits (handOver f s).map := by
  unfold handOver
  split
  next hroom => exact h.store hroom hlast
  next =>
    split
    · exact h
    · split
      next hfaint =>
        have herased := h.sublist (flaws := s.map.flaws.eraseP FlawRecord.isFaint) List.eraseP_sublist
        refine herased.store ?_ hlast
        obtain ⟨g, hg, hgfaint⟩ := List.any_eq_true.mp hfaint
        have hlength := h.length
        have hpos := List.length_pos_of_mem hg
        rw [List.length_eraseP_of_mem hg hgfaint]
        omega
      next => exact mapFits_addSpan (s := s.count _) h _ _ _

/-! ## Closing flaws -/

theorem mapFits_closeFlaw {x : Slotted} {forced : Bool} {s : State} (h : MapFits s.map) :
    MapFits (closeFlaw forced x s).map := by
  show MapFits (closeRecord x.flaw forced s).map
  unfold closeRecord
  split
  · exact h
  · simp only
    split
    · exact h
    next hbehind => exact mapFits_handOver (s := s.count _) h (Nat.not_lt.mp hbehind)

theorem mapFits_forceClose {x : Slotted} {s : State} (h : MapFits s.map) : MapFits (forceClose x s).map := by
  have hclosed : MapFits
      (closeFlaw true x (raise .forced (s.count fun c => { c with forcedCloses := bump c.forcedCloses }))).map :=
    mapFits_closeFlaw h
  unfold forceClose
  simp only
  split
  · exact hclosed
  · exact mapFits_addSpan hclosed _ _ _

theorem mapFits_assemble {m : Measured} {late : Bool} {s : State} (h : MapFits s.map) :
    MapFits (assemble m late s).1.map := by
  have hopen : MapFits (openNew m late s).1.map := by
    unfold openNew
    simp only
    split
    · exact h
    · exact h
    · exact mapFits_forceClose h
  unfold assemble
  simp only
  split
  · exact hopen
  · exact h

theorem mapFits_sweep {s : State} (h : MapFits s.map) : MapFits (sweep s).map := by
  unfold sweep
  generalize s.sweepList = xs
  induction xs generalizing s with
  | nil => exact h
  | cons x xs ih => exact ih (mapFits_closeFlaw h)

theorem mapFits_completeDetection {d : Detection} {s : State} (h : MapFits s.map) :
    MapFits (completeDetection d s).map := by
  unfold completeDetection
  simp only
  split
  · split
    · exact h
    · split
      · exact mapFits_closeFlaw (mapFits_assemble h)
      · exact mapFits_assemble h
  · exact mapFits_assemble h

theorem mapFits_completeMark {m : Nat} {s : State} (h : MapFits s.map) : MapFits (completeMark m s).map := by
  unfold completeMark advanceToMark
  rw [promotionTest_map]
  refine mapFits_sweep ?_
  split
  · exact h.congr rfl rfl rfl
  · exact h

theorem mapFits_completeGap {first last : Nat} {cause : GapCause} {s : State} (h : MapFits s.map) :
    MapFits (completeGap first last cause s).map := by
  unfold completeGap advanceToGap
  rw [promotionTest_map]
  exact mapFits_sweep ((mapFits_addSpan h (min first s.map.w) last cause.span).congr rfl rfl rfl)

/-! ## Every effect -/

theorem change_keeps (s t : State) (h : Change s t) (hs : MapFits s.map) : MapFits t.map := by
  have hsame : t.map = s.map → MapFits t.map := fun heq => by rw [heq]; exact hs
  cases h with
  | reset => exact mapFits_nil rfl (Nat.zero_le _)
  | second => exact hsame (by simp)
  | opening => exact hsame (by simp)
  | commit => exact hsame (by simp)
  | expire => exact hsame (by simp)
  | miss => exact hsame (by simp)
  | execute => exact hsame (by simp)
  | span => exact mapFits_addSpan hs _ _ _
  | detection => exact mapFits_completeDetection (s := finishEntry s) hs
  | mark => exact mapFits_completeMark (s := finishEntry s) hs
  | gap => exact mapFits_completeGap (s := finishEntry s) hs
  | cullet c => rw [closeCull_map]; exact hs.release _
  | plates c => rw [closePlates_map]; exact hs.release _
  | entry => exact hsame (by simp)
  | lineClear => rw [returnToSetup_map]; exact mapFits_nil rfl hs.next
  | restart => rw [restart_map]; exact mapFits_nil rfl hs.next
  | frame | pulse | tick | stop | setTime | shiftTable | closeShift | hold | expiryTaken | issue | routesRead | enter
  | discard | dropForFull | statusRead | entryTaken | background | pieceTaken | switch | pattern | orderAdded
  | orderClosed | orderRemoved | sampleAdded | sampleCancelled | recipes | conf => exact hsame rfl

/-- Settles O56: every effect a step can have keeps the flaw map in order. -/
theorem everyStepKeepsTheFlawMapOrdered : Obligations.EveryStepKeepsTheFlawMapOrdered := fun s t hs h =>
  (flawMapLaw_iff t).mpr (step_keeps (law := fun u => MapFits u.map) change_keeps ((flawMapLaw_iff s).mp hs) h)

/-! ## The hand-over (R82 to R84) -/

/-- What the storing of `f` among the records `old` leaves: the first free number, the place in the order, and the rest of the
part but its accounts. -/
def StoredAmong (f : FlawRecord) (s : State) (old : List FlawRecord) (t : State) : Prop :=
  ∃ n tries, n = (s.map.nextNumber + tries) % 65536 ∧ (∀ g ∈ old, g.number ≠ n) ∧
    (∀ i, i < tries → ∃ g ∈ old, g.number = (s.map.nextNumber + i) % 65536) ∧
    (∃ before after, old = before ++ after ∧ t.map.flaws = before ++ { f with number := n } :: after ∧
      (∀ g ∈ before, ¬(f.firstRow < g.firstRow ∨ (f.firstRow = g.firstRow ∧ n < g.number))) ∧
      ∀ g, after.head? = some g → f.firstRow < g.firstRow ∨ (f.firstRow = g.firstRow ∧ n < g.number)) ∧
    t.map.nextNumber = (if n < 65535 then n + 1 else 0) ∧
    { t with map := s.map, accounts := s.accounts } = s ∧
    { t.map with flaws := s.map.flaws, nextNumber := s.map.nextNumber } = s.map

theorem store_storedAmong {f : FlawRecord} {s t : State} {old : List FlawRecord} (hnext : s.map.nextNumber ≤ 65535)
    (hlength : old.length ≤ 65535) (hmap : t.map = { s.map with flaws := old }.store f)
    (hframe : { t with map := s.map, accounts := s.accounts } = s) : StoredAmong f s old t := by
  obtain ⟨k, hfirst, hfree, hcarried⟩ := firstFreeNumber_free (flaws := old) hnext hlength
  obtain ⟨before, after, hlist, heq, hnot, hhead⟩ :=
    insertOrdered_eq_append FlawRecord.precedes { f with number := (s.map.nextNumber + k) % 65536 } old
  have hstored : t.map =
      { s.map with
        flaws := insertOrdered FlawRecord.precedes { f with number := (s.map.nextNumber + k) % 65536 } old
        nextNumber := wrapSucc ((s.map.nextNumber + k) % 65536) } := by
    rw [hmap]
    unfold RibbonMap.store
    simp only
    rw [hfirst]
  refine ⟨(s.map.nextNumber + k) % 65536, k, rfl, ?_, fun i hi => carriesNumber_iff.mp (hcarried i hi), ?_, ?_, hframe, ?_⟩
  · intro g hg heq
    rw [carriesNumber_iff.mpr ⟨g, hg, heq⟩] at hfree
    cases hfree
  · refine ⟨before, after, hlist, by rw [hstored]; exact heq, fun g hg hpre => ?_, fun g hg => ?_⟩
    · have hno := hnot g hg
      have hyes : FlawRecord.precedes { f with number := (s.map.nextNumber + k) % 65536 } g = true := precedes_iff.mpr hpre
      rw [hyes] at hno
      cases hno
    · exact precedes_iff.mp (hhead g hg)
  · rw [hstored]
    rfl
  · rw [hstored]

theorem isFaint_iff {f : FlawRecord} : f.isFaint = true ↔ f.cls = .faint := by simp [FlawRecord.isFaint]

theorem isFaint_eq_false {f : FlawRecord} (h : f.cls ≠ .faint) : f.isFaint = false := by simpa [FlawRecord.isFaint] using h

/-- Settles O29, by the cases of R83 and R84. -/
theorem flawHandedToTheMap : Obligations.FlawHandedToTheMap := by
  intro f s hlength hnext _
  refine ⟨fun hroom => ?_, fun hfull hfaint => ?_, fun hfull hclass before after g hlist hg hbefore => ?_,
    fun hfull hclass hnone => ?_⟩
  · have heq : handOver f s = { s with map := s.map.store f } := if_pos hroom
    rw [heq]
    exact ⟨store_storedAmong (t := { s with map := s.map.store f }) hnext (by omega) rfl rfl, rfl⟩
  · unfold handOver
    rw [if_neg (by simp only [Config.mapCapacity]; omega), if_pos (isFaint_iff.mpr hfaint)]
    rfl
  · have hany : s.map.flaws.any FlawRecord.isFaint = true :=
      List.any_eq_true.mpr ⟨g, by simp [hlist], isFaint_iff.mpr hg⟩
    have herase : s.map.flaws.eraseP FlawRecord.isFaint = before ++ after := by
      rw [hlist, List.eraseP_append_right _ (fun h hh => by simp [isFaint_eq_false (hbefore h hh)]),
        List.eraseP_cons_of_pos (isFaint_iff.mpr hg)]
    have heq : handOver f s =
        countFaintDropped { s with map := { s.map with flaws := before ++ after }.store f } := by
      unfold handOver
      rw [if_neg (by simp only [Config.mapCapacity]; omega), if_neg (by simp [isFaint_eq_false hclass]), if_pos hany, herase]
    have hshort : (before ++ after).length ≤ 65535 := by
      rw [hlist] at hlength
      simp only [List.length_append, List.length_cons] at hlength ⊢
      omega
    rw [heq]
    exact ⟨store_storedAmong (t := countFaintDropped _) hnext hshort rfl rfl, rfl⟩
  · have hany : ¬s.map.flaws.any FlawRecord.isFaint = true := by
      simp only [List.any_eq_true, not_exists, not_and]
      exact fun h hh => by simp [isFaint_eq_false (hnone h hh)]
    unfold handOver
    rw [if_neg (by simp only [Config.mapCapacity]; omega), if_neg (by simp [isFaint_eq_false hclass]), if_neg hany]
    rfl

end Sys2Proof.Proofs.FlawMap
end

section
/-!
The blind spans (R85 to R87, R90): in order, apart, at most eight, each with a cause, none behind E_closed. A span added joins
what it overlaps or touches, and what stays stands clear of the joined span; into a full list it merges with a neighbour,
which stays clear of the others since the span lay between the two.
-/

namespace Sys2Proof.Proofs.Spans

open Sys2Proof Sys2Proof.Machine Sys2Proof.Proofs.Steps Sys2Proof.Proofs.Frames
open Sys2Proof.Proofs.FlawMap (pairwise_insertOrdered)
open Sys2Proof.Proofs.Setup (openFlaws_empty)
open Sys2Proof.Proofs.Watermark (mem_entries_push mem_entries_takeOldest mem_entries_of_finish mem_entries_of_inProcess)

/-! ## One span before another -/

/-- A span ends before the other starts, with at least one row between. -/
def Before (x y : Span) : Prop := x.last + 1 < y.first

theorem not_touches_iff {x y : Span} : Span.touches x.first x.last y = false ↔ Before x y ∨ Before y x := by
  simp only [Span.touches, Before, Bool.and_eq_false_iff, decide_eq_false_iff_not]
  omega

theorem join_before {x y z : Span} : Before (x.join y) z ↔ Before x z ∧ Before y z := by
  simp only [Before, Span.join]
  omega

theorem before_join {x y z : Span} : Before z (x.join y) ↔ Before z x ∧ Before z y := by
  simp only [Before, Span.join]
  omega

theorem Before.trans {x y z : Span} (hxy : Before x y) (hyz : Before y z) (hy : y.first ≤ y.last) : Before x z := by
  unfold Before at *
  omega

/-! ## The joined span -/

theorem foldl_join_before {z : Span} : ∀ (found : List Span) (x : Span), Before x z → (∀ y ∈ found, Before y z) →
    Before (found.foldl Span.join x) z
  | [], _, hx, _ => hx
  | y :: found, x, hx, hfound =>
    foldl_join_before found (x.join y) (join_before.mpr ⟨hx, hfound y List.mem_cons_self⟩)
      fun w hw => hfound w (List.mem_cons_of_mem _ hw)

theorem before_foldl_join {z : Span} : ∀ (found : List Span) (x : Span), Before z x → (∀ y ∈ found, Before z y) →
    Before z (found.foldl Span.join x)
  | [], _, hx, _ => hx
  | y :: found, x, hx, hfound =>
    before_foldl_join found (x.join y) (before_join.mpr ⟨hx, hfound y List.mem_cons_self⟩)
      fun w hw => hfound w (List.mem_cons_of_mem _ hw)

/-- A property of spans that a join keeps holds of the joined span. -/
theorem foldl_join_induct {motive : Span → Prop} (hjoin : ∀ a b, motive a → motive b → motive (a.join b)) :
    ∀ (found : List Span) (x : Span), motive x → (∀ y ∈ found, motive y) → motive (found.foldl Span.join x)
  | [], _, hx, _ => hx
  | y :: found, x, hx, hfound =>
    foldl_join_induct hjoin found (x.join y) (hjoin x y hx (hfound y List.mem_cons_self))
      fun w hw => hfound w (List.mem_cons_of_mem _ hw)

/-- Spans of an ordered list, one of which the added span touches and the other not: the other stands clear on the same side
of both. -/
theorem apart_of_touches {x y z : Span} (hy : y.first ≤ y.last)
    (htouch : Span.touches x.first x.last z = true) (hyz : Before y z ∨ Before z y) :
    (Before x y → Before z y) ∧ (Before y x → Before y z) := by
  simp only [Span.touches, Bool.and_eq_true, decide_eq_true_eq] at htouch
  unfold Before at *
  omega

/-! ## The spans of the list after an addition -/

theorem mem_mergeNearest {x w : Span} : ∀ {spans : List Span}, w ∈ mergeNearest x spans →
    w = x ∨ w ∈ spans ∨ ∃ y ∈ spans, w = x.join y
  | [], h => Or.inl (List.mem_singleton.mp h)
  | [y], h => Or.inr (Or.inr ⟨y, List.mem_singleton_self y, List.mem_singleton.mp h⟩)
  | y :: z :: rest, h => by
    unfold mergeNearest at h
    split at h
    · rcases List.mem_cons.mp h with rfl | h
      · exact Or.inr (Or.inr ⟨y, List.mem_cons_self, rfl⟩)
      · exact Or.inr (Or.inl (List.mem_cons_of_mem _ h))
    · split at h
      · rcases List.mem_cons.mp h with rfl | h
        · exact Or.inr (Or.inl List.mem_cons_self)
        · rcases mem_mergeNearest h with h | h | ⟨v, hv, h⟩
          · exact Or.inl h
          · exact Or.inr (Or.inl (List.mem_cons_of_mem _ h))
          · exact Or.inr (Or.inr ⟨v, List.mem_cons_of_mem _ hv, h⟩)
      · split at h
        · rcases List.mem_cons.mp h with rfl | h
          · exact Or.inr (Or.inr ⟨y, List.mem_cons_self, rfl⟩)
          · exact Or.inr (Or.inl (List.mem_cons_of_mem _ h))
        · rcases List.mem_cons.mp h with rfl | h
          · exact Or.inr (Or.inl List.mem_cons_self)
          · rcases List.mem_cons.mp h with rfl | h
            · exact Or.inr (Or.inr ⟨z, List.mem_cons_of_mem _ List.mem_cons_self, rfl⟩)
            · exact Or.inr (Or.inl (List.mem_cons_of_mem _ (List.mem_cons_of_mem _ h)))

/-- A property that a join keeps holds of every span after an addition. -/
theorem mergeSpan_induct {motive : Span → Prop} (hjoin : ∀ a b, motive a → motive b → motive (a.join b)) {x : Span}
    {spans : List Span} (hx : motive x) (hspans : ∀ y ∈ spans, motive y) : ∀ w ∈ (mergeSpan x spans).1, motive w := by
  intro w hw
  unfold mergeSpan at hw
  simp only at hw
  split at hw
  · rcases (mem_insertOrdered _ _ _ _).mp hw with rfl | hw
    · exact foldl_join_induct hjoin _ x hx fun y hy => hspans y (List.mem_filter.mp hy).1
    · exact hspans w (List.mem_filter.mp hw).1
  · split at hw
    · rcases (mem_insertOrdered _ _ _ _).mp hw with rfl | hw
      · exact hx
      · exact hspans w hw
    · rcases mem_mergeNearest hw with rfl | hw | ⟨y, hy, rfl⟩
      · exact hx
      · exact hspans w hw
      · exact hjoin x y hx (hspans y hy)

/-! ## The spans stay apart -/

/-- A span clear of every span of an ordered list stands at its place in it. -/
theorem insertSpan_apart {x : Span} {spans : List Span} (hx : x.first ≤ x.last) (hspans : ∀ y ∈ spans, y.first ≤ y.last)
    (hordered : spans.Pairwise Before) (hclear : ∀ y ∈ spans, Before x y ∨ Before y x) :
    (insertSpan x spans).Pairwise Before := by
  refine pairwise_insertOrdered hordered (fun y hy hnot => ?_) (fun y hy hpre => ?_) fun y hy z _ hxy hyz =>
    hxy.trans hyz (hspans y hy)
  · have hy' := hspans y hy
    have hcases := hclear y hy
    simp only [decide_eq_false_iff_not] at hnot
    unfold Before at *
    omega
  · have hy' := hspans y hy
    have hcases := hclear y hy
    simp only [decide_eq_true_eq] at hpre
    unfold Before at *
    omega

theorem mergeNearest_apart {x : Span} (hx : x.first ≤ x.last) : ∀ {spans : List Span}, (∀ y ∈ spans, y.first ≤ y.last) →
    spans.Pairwise Before → (∀ y ∈ spans, Before x y ∨ Before y x) → (mergeNearest x spans).Pairwise Before
  | [], _, _, _ => List.pairwise_singleton _ _
  | [_], _, _, _ => List.pairwise_singleton _ _
  | y :: z :: rest, hspans, hordered, hclear => by
    obtain ⟨hyAll, hordered'⟩ := List.pairwise_cons.mp hordered
    obtain ⟨hzAll, hordered''⟩ := List.pairwise_cons.mp hordered'
    have hy := hspans y List.mem_cons_self
    have hz := hspans z (List.mem_cons_of_mem _ List.mem_cons_self)
    have hxy := hclear y List.mem_cons_self
    have hxz := hclear z (List.mem_cons_of_mem _ List.mem_cons_self)
    unfold mergeNearest
    split
    next hlt =>
      have hbefore : Before x y := hxy.resolve_right fun h => by unfold Before at h; omega
      refine List.pairwise_cons.mpr ⟨fun w hw => join_before.mpr ⟨?_, hyAll w hw⟩, hordered'⟩
      exact hbefore.trans (hyAll w hw) hy
    next hnot =>
      have hyx : Before y x := hxy.resolve_left fun h => by unfold Before at h; omega
      split
      next =>
        refine List.pairwise_cons.mpr ⟨fun w hw => ?_, mergeNearest_apart hx
          (fun w hw => hspans w (List.mem_cons_of_mem _ hw)) hordered' fun w hw => hclear w (List.mem_cons_of_mem _ hw)⟩
        rcases mem_mergeNearest hw with rfl | hw | ⟨v, hv, rfl⟩
        · exact hyx
        · exact hyAll w hw
        · exact before_join.mpr ⟨hyx, hyAll v hv⟩
      next hle =>
        have hxz' : Before x z := hxz.resolve_right fun h => by unfold Before at h; omega
        have hxAll : ∀ w ∈ z :: rest, Before x w := by
          intro w hw
          rcases List.mem_cons.mp hw with rfl | hw
          · exact hxz'
          · exact hxz'.trans (hzAll w hw) hz
        split
        · exact List.pairwise_cons.mpr ⟨fun w hw => join_before.mpr ⟨hxAll w hw, hyAll w hw⟩, hordered'⟩
        · refine List.pairwise_cons.mpr ⟨fun w hw => ?_, List.pairwise_cons.mpr ⟨fun w hw => ?_, hordered''⟩⟩
          · rcases List.mem_cons.mp hw with rfl | hw
            · exact before_join.mpr ⟨hyx, hyAll z List.mem_cons_self⟩
            · exact hyAll w (List.mem_cons_of_mem _ hw)
          · exact join_before.mpr ⟨hxAll w (List.mem_cons_of_mem _ hw), hzAll w hw⟩

/-- What holds of every pair of a list in its order, whichever way the two are named, holds of any two members. -/
theorem forall_of_pairwise {α : Type} {r : α → α → Prop} (hsymm : ∀ a b, r a b → r b a) {xs : List α}
    (hxs : xs.Pairwise r) {a b : α} (ha : a ∈ xs) (hb : b ∈ xs) (hne : a ≠ b) : r a b := by
  induction hxs with
  | nil => cases ha
  | cons hhead _ ih =>
    rcases List.mem_cons.mp ha with hax | hax
    · rcases List.mem_cons.mp hb with hbx | hbx
      · exact absurd (hax.trans hbx.symm) hne
      · exact hax ▸ hhead b hbx
    · rcases List.mem_cons.mp hb with hbx | hbx
      · exact hbx ▸ hsymm _ _ (hhead a hax)
      · exact ih hax hbx

theorem mergeSpan_apart {x : Span} {spans : List Span} (hx : x.first ≤ x.last) (hspans : ∀ y ∈ spans, y.first ≤ y.last)
    (hordered : spans.Pairwise Before) : (mergeSpan x spans).1.Pairwise Before := by
  have heach : ∀ y ∈ spans, ∀ z ∈ spans, Span.touches x.first x.last y = false → Span.touches x.first x.last z = true →
      Before y z ∨ Before z y := by
    intro y hy z hz hnot htouch
    have hsymm : spans.Pairwise fun a b => Before a b ∨ Before b a := hordered.imp Or.inl
    refine forall_of_pairwise (fun _ _ => Or.symm) hsymm hy hz fun heq => ?_
    rw [heq, htouch] at hnot
    cases hnot
  unfold mergeSpan
  simp only
  split
  · refine insertSpan_apart ?_ (fun y hy => hspans y (List.mem_filter.mp hy).1) (hordered.sublist List.filter_sublist) ?_
    · exact foldl_join_induct (motive := fun a => a.first ≤ a.last) (fun a b ha hb => by simp only [Span.join]; omega)
        _ x hx fun y hy => hspans y (List.mem_filter.mp hy).1
    · intro y hy
      obtain ⟨hmem, hnot⟩ := List.mem_filter.mp hy
      have hnot : Span.touches x.first x.last y = false := by simpa using hnot
      have hsides : ∀ z ∈ spans.filter (Span.touches x.first x.last),
          (Before x y → Before z y) ∧ (Before y x → Before y z) := by
        intro z hz
        obtain ⟨hzmem, htouch⟩ := List.mem_filter.mp hz
        exact apart_of_touches (hspans y hmem) htouch (heach y hmem z hzmem hnot htouch)
      rcases not_touches_iff.mp hnot with hxy | hyx
      · exact Or.inl (foldl_join_before _ x hxy fun z hz => (hsides z hz).1 hxy)
      · exact Or.inr (before_foldl_join _ x hyx fun z hz => (hsides z hz).2 hyx)
  next hnone =>
    have hclear : ∀ y ∈ spans, Before x y ∨ Before y x := by
      intro y hy
      refine not_touches_iff.mp ?_
      have hempty : spans.filter (Span.touches x.first x.last) = [] := by simpa using hnone
      simpa using List.filter_eq_nil_iff.mp hempty y hy
    split
    · exact insertSpan_apart hx hspans hordered hclear
    · exact mergeNearest_apart hx hspans hordered hclear

/-! ## The law of the spans -/

/-- A span has rows within the count of P, a cause, and rows not yet released. -/
def SpanFits (eClosed : Nat) (x : Span) : Prop :=
  x.first ≤ x.last ∧ x.last ≤ 4294967295 ∧ x.causes ≠ 0 ∧ eClosed ≤ x.last

/-- The blind span law, for the map. -/
structure SpansFit (m : RibbonMap) : Prop where
  length : m.spans.length ≤ 8
  each : ∀ x ∈ m.spans, SpanFits m.eClosed x
  apart : m.spans.Pairwise Before

theorem SpansFit.congr {m n : RibbonMap} (h : SpansFit m) (hspans : n.spans = m.spans) (hclosed : n.eClosed = m.eClosed) :
    SpansFit n := by
  obtain ⟨hl, he, ha⟩ := h
  exact ⟨by rw [hspans]; exact hl, by rw [hspans, hclosed]; exact he, by rw [hspans]; exact ha⟩

theorem spansFit_nil {m : RibbonMap} (h : m.spans = []) : SpansFit m := by
  refine ⟨?_, ?_, ?_⟩ <;> rw [h]
  · exact Nat.zero_le _
  · simp
  · exact .nil

theorem SpansFit.release {m : RibbonMap} (h : SpansFit m) (e : Nat) : SpansFit (m.release e) where
  length := Nat.le_trans (List.length_filter_le _ _) h.length
  each x hx := by
    obtain ⟨hmem, hkept⟩ := List.mem_filter.mp hx
    obtain ⟨hrows, hmax, hcauses, -⟩ := h.each x hmem
    exact ⟨hrows, hmax, hcauses, by simpa [RibbonMap.release] using hkept⟩
  apart := h.apart.sublist List.filter_sublist

theorem bit_ne_zero (cause : SpanCause) : cause.bit ≠ 0 := by cases cause <;> decide

theorem or_ne_zero {a b : BitVec 6} (ha : a ≠ 0) : a ||| b ≠ 0 := fun h => ha (BitVec.or_eq_zero_iff.mp h).1

theorem spanFits_join {eClosed : Nat} {a b : Span} (ha : SpanFits eClosed a) (hb : SpanFits eClosed b) :
    SpanFits eClosed (a.join b) := by
  obtain ⟨hrows, hmax, hcauses, hclosed⟩ := ha
  obtain ⟨hrows', hmax', -, -⟩ := hb
  refine ⟨?_, ?_, or_ne_zero hcauses, ?_⟩ <;> simp only [Span.join] <;> omega

theorem spansFit_addSpan {first last : Nat} {cause : SpanCause} {s : State} (hs : SpansFit s.map) (hrows : first ≤ last) :
    SpansFit (addSpan first last cause s).map := by
  rcases Nat.lt_or_ge (min last 4294967295) s.map.eClosed with hbehind | hahead
  · rw [addSpan_of_released cause hbehind]
    exact hs
  · have hx : SpanFits s.map.eClosed ⟨min first 4294967295, min last 4294967295, cause.bit⟩ :=
      ⟨by simp only; omega, Nat.min_le_right _ _, bit_ne_zero cause, hahead⟩
    have heq := addSpan_spans (first := first) cause hahead
    refine ⟨?_, ?_, ?_⟩
    · rw [heq]
      exact mergeSpan_length _ hs.length
    · rw [heq, addSpan_map_eClosed]
      exact mergeSpan_induct (fun _ _ => spanFits_join) hx hs.each
    · rw [heq]
      exact mergeSpan_apart hx.1 (fun y hy => (hs.each y hy).1) hs.apart

/-! ## The open flaws cover rows -/

/-- Every open flaw covers at least one row. -/
def FlawsCover (t : FlawTable) : Prop := ∀ (i : Fin 32) (f : OpenFlaw), t.slots[i] = some f → f.firstRow ≤ f.lastRow

theorem flawsCover_iff (t : FlawTable) : FlawsCover t ↔ ∀ x ∈ t.openFlaws, x.flaw.firstRow ≤ x.flaw.lastRow :=
  ⟨fun h x hx => h x.slot x.flaw (mem_openFlaws.mp hx), fun h i f hf => h ⟨i, f⟩ (mem_openFlaws.mpr hf)⟩

theorem flawsCover_put {t : FlawTable} (h : FlawsCover t) (i : Fin 32) {f : OpenFlaw} (hf : f.firstRow ≤ f.lastRow) :
    FlawsCover (t.put i f) := by
  intro j g hg
  rw [slots_put] at hg
  split at hg
  · cases hg
    exact hf
  · exact h j g hg

theorem flawsCover_free {t : FlawTable} (h : FlawsCover t) (i : Fin 32) : FlawsCover (t.free i) := by
  intro j g hg
  rw [slots_free] at hg
  split at hg
  · cases hg
  · exact h j g hg

theorem flawsCover_freeAll {t : FlawTable} (h : FlawsCover t) (xs : List Slotted) :
    FlawsCover (xs.foldl (fun t y => t.free y.slot) t) := by
  induction xs generalizing t with
  | nil => exact h
  | cons x xs ih => exact ih (flawsCover_free h x.slot)

theorem merged_covers {f : OpenFlaw} (hf : f.firstRow ≤ f.lastRow) (xs : List Slotted) :
    (xs.foldl (fun f y => f.merge y.flaw) f).firstRow ≤ (xs.foldl (fun f y => f.merge y.flaw) f).lastRow := by
  induction xs generalizing f with
  | nil => exact hf
  | cons x xs ih =>
    refine ih ?_
    simp only [OpenFlaw.merge]
    omega

theorem joined_covers {f : OpenFlaw} (hf : f.firstRow ≤ f.lastRow) (m : Measured) (stamp : Nat) (late : Bool) :
    (f.join m stamp late).firstRow ≤ (f.join m stamp late).lastRow := by
  simp only [OpenFlaw.join]
  omega

/-! ## Closing and assembling -/

/-- The open flaws cover rows, and the spans are in order. -/
structure Fits (s : State) : Prop where
  flaws : FlawsCover s.assembler
  spans : SpansFit s.map

theorem spansFit_handOver {f : FlawRecord} {s : State} (h : SpansFit s.map) (hf : f.firstRow ≤ f.lastRow) :
    SpansFit (handOver f s).map := by
  unfold handOver
  split
  · exact h.congr rfl rfl
  · split
    · exact h
    · split
      · exact h.congr rfl rfl
      · exact spansFit_addSpan (s := s.count _) h hf

theorem spansFit_closeRecord {f : OpenFlaw} {forced : Bool} {s : State} (h : SpansFit s.map) (hf : f.firstRow ≤ f.lastRow) :
    SpansFit (closeRecord f forced s).map := by
  unfold closeRecord
  split
  · exact h
  · simp only
    split
    · exact h
    · exact spansFit_handOver (s := s.count _) h hf

theorem fits_closeFlaw {x : Slotted} {forced : Bool} {s : State} (h : Fits s) (hx : x.flaw.firstRow ≤ x.flaw.lastRow) :
    Fits (closeFlaw forced x s) where
  flaws := by
    rw [closeFlaw_assembler]
    exact flawsCover_free h.flaws x.slot
  spans := spansFit_closeRecord h.spans hx

theorem fits_forceClose {x : Slotted} {s : State} (h : Fits s) (hx : x.flaw.firstRow ≤ x.flaw.lastRow) :
    Fits (forceClose x s) := by
  have hclosed : Fits
      (closeFlaw true x (raise .forced (s.count fun c => { c with forcedCloses := bump c.forcedCloses }))) :=
    fits_closeFlaw ⟨h.flaws, h.spans⟩ hx
  unfold forceClose
  simp only
  split
  · exact hclosed
  · refine ⟨?_, spansFit_addSpan hclosed.spans (by omega)⟩
    rw [addSpan_assembler]
    exact hclosed.flaws

theorem fits_openNew {m : Measured} {late : Bool} {s : State} (h : Fits s) (hm : 1 ≤ m.d.band) :
    Fits (openNew m late s).1 ∧ (openNew m late s).2.flaw.firstRow ≤ (openNew m late s).2.flaw.lastRow := by
  have hnew : (openFlaw m s.assembler.assembly late).firstRow ≤ (openFlaw m s.assembler.assembly late).lastRow := by
    simp only [openFlaw, Detection.lastRow]
    omega
  unfold openNew
  simp only
  split
  · exact ⟨⟨flawsCover_put h.flaws _ hnew, h.spans⟩, hnew⟩
  · exact ⟨h, hnew⟩
  next x xs _ hopen =>
    have hmem : earliestEnding x xs ∈ s.assembler.openFlaws := by
      rw [hopen]
      exact leastBy_mem _ x xs
    have hforced := fits_forceClose h ((flawsCover_iff _).mp h.flaws _ hmem)
    exact ⟨⟨flawsCover_put hforced.flaws _ hnew, hforced.spans⟩, hnew⟩

theorem fits_joinMatched {m : Measured} {late : Bool} {x : Slotted} {xs : List Slotted} {s : State} (h : Fits s)
    (hxs : ∀ y ∈ x :: xs, y ∈ s.assembler.openFlaws) :
    Fits (joinMatched m late x xs s).1 ∧
      (joinMatched m late x xs s).2.flaw.firstRow ≤ (joinMatched m late x xs s).2.flaw.lastRow := by
  have hkept := (flawsCover_iff _).mp h.flaws _ (hxs _ (leastBy_mem (fun y => y.flaw.firstRow) x xs))
  have hmerged := joined_covers (merged_covers hkept
    ((x :: xs).filter fun y => y.slot != (leastBy (fun y => y.flaw.firstRow) x xs).slot)) m s.assembler.assembly late
  exact ⟨⟨flawsCover_put (flawsCover_freeAll h.flaws _) _ hmerged, h.spans⟩, hmerged⟩

theorem fits_assemble {m : Measured} {late : Bool} {s : State} (h : Fits s) (hm : 1 ≤ m.d.band) :
    Fits (assemble m late s).1 ∧ (assemble m late s).2.flaw.firstRow ≤ (assemble m late s).2.flaw.lastRow := by
  unfold assemble
  simp only
  split
  · obtain ⟨hfits, hflaw⟩ := fits_openNew (late := late) h hm
    exact ⟨⟨hfits.flaws, hfits.spans⟩, hflaw⟩
  next x xs hmatched =>
    obtain ⟨hfits, hflaw⟩ := fits_joinMatched (m := m) (late := late) (x := x) (xs := xs) h fun y hy => by
      rw [← hmatched] at hy
      exact (List.mem_filter.mp hy).1
    exact ⟨⟨hfits.flaws, hfits.spans⟩, hflaw⟩

theorem fits_completeDetection {d : Detection} {s : State} (h : Fits s) (hd : 1 ≤ d.band) : Fits (completeDetection d s) := by
  unfold completeDetection
  simp only
  split
  · split
    · exact ⟨h.flaws, h.spans⟩
    · obtain ⟨hfits, hflaw⟩ := fits_assemble (m := measure s.refs d) (late := true)
        (s := raise .late (s.count fun c => { c with late := bump c.late })) ⟨h.flaws, h.spans⟩ hd
      split
      · exact fits_closeFlaw hfits hflaw
      · exact hfits
  · exact (fits_assemble h hd).1

theorem fits_sweep {s : State} (h : Fits s) : Fits (sweep s) := by
  have hall : ∀ x ∈ s.sweepList, x.flaw.firstRow ≤ x.flaw.lastRow := by
    intro x hx
    have hmem : x ∈ s.assembler.openFlaws := by
      unfold State.sweepList at hx
      rw [mem_sortOrdered] at hx
      exact (List.mem_filter.mp hx).1
    exact (flawsCover_iff _).mp h.flaws x hmem
  unfold sweep
  generalize s.sweepList = xs at hall
  induction xs generalizing s with
  | nil => exact h
  | cons x xs ih =>
    exact ih (fits_closeFlaw h (hall x List.mem_cons_self)) fun y hy => hall y (List.mem_cons_of_mem _ hy)

theorem fits_promotionTest {s : State} (h : Fits s) : Fits (promotionTest s) := by
  obtain ⟨hflaws, hspans⟩ := h
  exact ⟨by rw [promotionTest_assembler]; exact hflaws, by rw [promotionTest_map]; exact hspans⟩

theorem fits_completeMark {m : Nat} {s : State} (h : Fits s) : Fits (completeMark m s) := by
  refine fits_promotionTest (fits_sweep ?_)
  unfold advanceToMark
  split
  · exact ⟨h.flaws, h.spans.congr rfl rfl⟩
  · exact h

theorem fits_completeGap {first last : Nat} {cause : GapCause} {s : State} (h : Fits s) (hrows : first ≤ last) :
    Fits (completeGap first last cause s) := by
  have hspan := spansFit_addSpan (first := min first s.map.w) (cause := cause.span) h.spans (by omega : _ ≤ last)
  refine fits_promotionTest (fits_sweep ⟨?_, hspan.congr rfl rfl⟩)
  show FlawsCover (addSpan (min first s.map.w) last cause.span s).assembler
  rw [addSpan_assembler]
  exact h.flaws

/-! ## Every effect -/

/-- The blind span law, block by block. -/
structure Blind (s : State) : Prop where
  entries : ∀ e ∈ s.intake.entries, e.covers
  fits : Fits s

theorem blindSpanLaw_iff (s : State) : BlindSpanLaw s ↔ Blind s := by
  constructor
  · rintro ⟨hentries, hflaws, hlength, heach, hapart⟩
    exact ⟨hentries, (flawsCover_iff _).mpr hflaws, hlength, heach, hapart⟩
  · rintro ⟨hentries, hflaws, hlength, heach, hapart⟩
    exact ⟨hentries, (flawsCover_iff _).mp hflaws, hlength, heach, hapart⟩

theorem blind_of_blocks {s t : State} (hs : Blind s) (hentries : ∀ e ∈ t.intake.entries, e ∈ s.intake.entries)
    (hflaws : t.assembler = s.assembler) (hmap : t.map = s.map) : Blind t :=
  ⟨fun e he => hs.entries e (hentries e he), by rw [hflaws]; exact hs.fits.flaws, by rw [hmap]; exact hs.fits.spans⟩

theorem blind_of_lineClear {t : State} (hentries : t.intake.entries = [])
    (hflaws : t.assembler = ⟨Vector.replicate 32 none, 0⟩) (hspans : t.map.spans = []) : Blind t where
  entries := by simp [hentries]
  fits := by
    refine ⟨?_, spansFit_nil hspans⟩
    rw [flawsCover_iff, hflaws, openFlaws_empty]
    simp

theorem change_keeps (s t : State) (h : Change s t) (hs : Blind s) : Blind t := by
  have hsame := blind_of_blocks (t := t) hs
  have hfits : Fits (finishEntry s) := ⟨hs.fits.flaws, hs.fits.spans⟩
  have hfinish : t.intake = (finishEntry s).intake → ∀ e ∈ t.intake.entries, e.covers := by
    intro heq e he
    rw [heq] at he
    exact hs.entries e (mem_entries_of_finish he)
  cases h with
  | reset => exact blind_of_lineClear rfl rfl rfl
  | second => exact hsame (by simp) (by simp) (by simp)
  | opening => exact hsame (by simp) (by simp) (by simp)
  | commit => exact hsame (by simp) (by simp) (by simp)
  | expire => exact hsame (by simp) (by simp) (by simp)
  | miss => exact hsame (by simp) (by simp) (by simp)
  | execute => exact hsame (by simp) (by simp) (by simp)
  | enter e _ _ hcovers =>
    refine ⟨fun x hx => ?_, ⟨hs.fits.flaws, hs.fits.spans⟩⟩
    rcases mem_entries_push.mp hx with hx | rfl
    · exact hs.entries x hx
    · exact hcovers
  | span first last cause _ hrows =>
    refine ⟨?_, ?_, spansFit_addSpan hs.fits.spans hrows⟩
    · rw [addSpan_intake]
      exact hs.entries
    · rw [addSpan_assembler]
      exact hs.fits.flaws
  | entryTaken => exact hsame (fun e he => (mem_entries_takeOldest (q := s.intake)).mp he) rfl rfl
  | background => exact hsame (fun e => mem_entries_of_finish) rfl rfl
  | detection d hentry =>
    exact ⟨hfinish (completeDetection_intake d _),
      fits_completeDetection hfits (hs.entries (.detection d) (mem_entries_of_inProcess hentry))⟩
  | mark m => exact ⟨hfinish (completeMark_intake m _), fits_completeMark hfits⟩
  | gap first last cause hentry =>
    exact ⟨hfinish (completeGap_intake first last cause _),
      fits_completeGap hfits (hs.entries (.gap first last cause) (mem_entries_of_inProcess hentry))⟩
  | cullet c =>
    refine ⟨?_, ?_, ?_⟩
    · rw [closeCull_intake]
      exact hs.entries
    · rw [closeCull_assembler]
      exact hs.fits.flaws
    · rw [closeCull_map]
      exact hs.fits.spans.release _
  | plates c =>
    refine ⟨?_, ?_, ?_⟩
    · rw [closePlates_intake]
      exact hs.entries
    · rw [closePlates_assembler]
      exact hs.fits.flaws
    · rw [closePlates_map]
      exact hs.fits.spans.release _
  | entry => exact hsame (by simp) (by simp) (by simp)
  | lineClear =>
    exact blind_of_lineClear (by simp [Intake.lineClear, Intake.entries]) (by simp) (by simp [RibbonMap.lineClear])
  | restart =>
    exact blind_of_lineClear (by simp [Intake.lineClear, Intake.entries]) (by simp) (by simp [RibbonMap.lineClear])
  | frame | pulse | tick | stop | setTime | shiftTable | closeShift | hold | expiryTaken | issue | routesRead | discard
  | dropForFull | statusRead | pieceTaken | switch | pattern | orderAdded | orderClosed | orderRemoved | sampleAdded
  | sampleCancelled | recipes | conf => exact hsame (fun _ he => he) rfl rfl

/-- Settles O57: every effect a step can have keeps the spans apart. -/
theorem everyStepKeepsTheBlindSpansApart : Obligations.EveryStepKeepsTheBlindSpansApart := fun s t hs h =>
  (blindSpanLaw_iff t).mpr (step_keeps change_keeps ((blindSpanLaw_iff s).mp hs) h)

end Sys2Proof.Proofs.Spans
end

section
/-!
An addition to the blind span list (R86, R87): what it covers, and which list it leaves.
-/

namespace Sys2Proof.Proofs.SpanCover

open Sys2Proof Sys2Proof.Machine Sys2Proof.Proofs.Spans

/-! ## A span covered with its causes -/

/-- The span `x` reaches over `y` and has all its causes. -/
def Covers (x y : Span) : Prop := x.first ≤ y.first ∧ y.last ≤ x.last ∧ x.causes &&& y.causes = y.causes

theorem Covers.refl (x : Span) : Covers x x := ⟨Nat.le_refl _, Nat.le_refl _, BitVec.and_self⟩

theorem or_and_absorb {n : Nat} (a b : BitVec n) : (a ||| b) &&& a = a ∧ (a ||| b) &&& b = b := by
  constructor
  · rw [BitVec.and_comm]
    ext i hi
    cases ha : a[i] <;> simp [ha]
  · ext i hi
    cases hb : b[i] <;> simp [hb]

theorem join_covers (x y : Span) : Covers (x.join y) x ∧ Covers (x.join y) y :=
  ⟨⟨Nat.min_le_left _ _, Nat.le_max_left _ _, (or_and_absorb _ _).1⟩,
    ⟨Nat.min_le_right _ _, Nat.le_max_right _ _, (or_and_absorb _ _).2⟩⟩

theorem Covers.trans {x y z : Span} (hxy : Covers x y) (hyz : Covers y z) : Covers x z := by
  obtain ⟨hfirst, hlast, hcauses⟩ := hxy
  obtain ⟨hfirst', hlast', hcauses'⟩ := hyz
  refine ⟨Nat.le_trans hfirst hfirst', Nat.le_trans hlast' hlast, ?_⟩
  rw [← hcauses', ← BitVec.and_assoc, hcauses]

/-- The joined span covers the added one and each that it joins. -/
theorem foldl_join_covers : ∀ (found : List Span) (x : Span),
    Covers (found.foldl Span.join x) x ∧ ∀ y ∈ found, Covers (found.foldl Span.join x) y
  | [], x => ⟨Covers.refl x, by simp⟩
  | z :: found, x => by
    obtain ⟨hacc, hfound⟩ := foldl_join_covers found (x.join z)
    obtain ⟨hx, hz⟩ := join_covers x z
    refine ⟨hacc.trans hx, fun y hy => ?_⟩
    rcases List.mem_cons.mp hy with rfl | hy
    · exact hacc.trans hz
    · exact hfound y hy

/-- Every span of a list and the added one are covered by a span of another list. -/
def CoversAll (new : List Span) (x : Span) (old : List Span) : Prop :=
  (∃ w ∈ new, Covers w x) ∧ ∀ y ∈ old, ∃ w ∈ new, Covers w y

theorem coversAll_cons {new old : List Span} {x y : Span} (h : CoversAll new x old) : CoversAll (y :: new) x (y :: old) := by
  obtain ⟨⟨w, hw, hcover⟩, hall⟩ := h
  refine ⟨⟨w, List.mem_cons_of_mem _ hw, hcover⟩, fun z hz => ?_⟩
  rcases List.mem_cons.mp hz with rfl | hz
  · exact ⟨z, List.mem_cons_self, Covers.refl z⟩
  · obtain ⟨v, hv, hcover'⟩ := hall z hz
    exact ⟨v, List.mem_cons_of_mem _ hv, hcover'⟩

theorem coversAll_join (x y : Span) (rest : List Span) : CoversAll (x.join y :: rest) x (y :: rest) := by
  obtain ⟨hx, hy⟩ := join_covers x y
  refine ⟨⟨_, List.mem_cons_self, hx⟩, fun z hz => ?_⟩
  rcases List.mem_cons.mp hz with rfl | hz
  · exact ⟨_, List.mem_cons_self, hy⟩
  · exact ⟨z, List.mem_cons_of_mem _ hz, Covers.refl z⟩

theorem mergeNearest_covers (x : Span) : ∀ spans : List Span, CoversAll (mergeNearest x spans) x spans
  | [] => ⟨⟨x, List.mem_singleton_self x, Covers.refl x⟩, by simp⟩
  | [y] => coversAll_join x y []
  | y :: z :: rest => by
    unfold mergeNearest
    split
    · exact coversAll_join x y (z :: rest)
    · split
      · exact coversAll_cons (mergeNearest_covers x (z :: rest))
      · split
        · exact coversAll_join x y (z :: rest)
        · exact coversAll_cons (coversAll_join x z rest)

theorem mergeSpan_covers (x : Span) (spans : List Span) : CoversAll (mergeSpan x spans).1 x spans := by
  unfold mergeSpan
  simp only
  split
  · obtain ⟨hx, hfound⟩ := foldl_join_covers (spans.filter (Span.touches x.first x.last)) x
    refine ⟨⟨_, (mem_insertOrdered _ _ _ _).mpr (Or.inl rfl), hx⟩, fun y hy => ?_⟩
    by_cases htouch : Span.touches x.first x.last y = true
    · exact ⟨_, (mem_insertOrdered _ _ _ _).mpr (Or.inl rfl), hfound y (List.mem_filter.mpr ⟨hy, htouch⟩)⟩
    · refine ⟨y, (mem_insertOrdered _ _ _ _).mpr (Or.inr (List.mem_filter.mpr ⟨hy, ?_⟩)), Covers.refl y⟩
      simpa using htouch
  · split
    · refine ⟨⟨x, (mem_insertOrdered _ _ _ _).mpr (Or.inl rfl), Covers.refl x⟩, fun y hy => ?_⟩
      exact ⟨y, (mem_insertOrdered _ _ _ _).mpr (Or.inr hy), Covers.refl y⟩
    · exact mergeNearest_covers x spans

/-! ## The list an addition leaves -/

/-- The joined span, end by end. -/
theorem foldl_join_eq : ∀ (found : List Span) (x : Span),
    found.foldl Span.join x =
      ⟨found.foldl (fun n y => min n y.first) x.first, found.foldl (fun n y => max n y.last) x.last,
        found.foldl (fun n y => n ||| y.causes) x.causes⟩
  | [], _ => rfl
  | y :: found, x => foldl_join_eq found (x.join y)

/-- With a span to join or room for another, the joined span stands at its place among those that it does not touch. -/
theorem mergeSpan_of_room {x : Span} {spans : List Span}
    (h : spans.filter (Span.touches x.first x.last) ≠ [] ∨ spans.length < 8) :
    mergeSpan x spans =
      (insertSpan ((spans.filter (Span.touches x.first x.last)).foldl Span.join x)
        (spans.filter fun y => !Span.touches x.first x.last y), false) := by
  unfold mergeSpan
  simp only
  split
  · rfl
  next hnone =>
    have hempty : spans.filter (Span.touches x.first x.last) = [] := by simpa using hnone
    have hroom : spans.length < 8 := h.resolve_left fun hne => hne hempty
    have hall : (spans.filter fun y => !Span.touches x.first x.last y) = spans := by
      rw [List.filter_eq_self]
      intro y hy
      simpa using List.filter_eq_nil_iff.mp hempty y hy
    rw [if_pos (by simpa [Config.spanCapacity] using hroom), hempty, hall]
    rfl

/-- A span that touches none of a full list merges with a neighbour. -/
theorem mergeSpan_of_full {x : Span} {spans : List Span} (htouch : spans.filter (Span.touches x.first x.last) = [])
    (hfull : spans.length = 8) : mergeSpan x spans = (mergeNearest x spans, true) := by
  unfold mergeSpan
  simp only
  rw [htouch, if_neg (by simp), if_neg (by simp [Config.spanCapacity, hfull])]

/-- The spans before one that starts before the added span stay. -/
theorem mergeNearest_append {x y : Span} {rest : List Span} (hyx : y.first < x.first) :
    ∀ before : List Span, (before ++ y :: rest).Pairwise Before → (∀ w ∈ before ++ y :: rest, w.first ≤ w.last) →
      mergeNearest x (before ++ y :: rest) = before ++ mergeNearest x (y :: rest)
  | [], _, _ => rfl
  | w :: before, hordered, hrows => by
    obtain ⟨hw, hordered'⟩ := List.pairwise_cons.mp hordered
    have hrows' : ∀ v ∈ before ++ y :: rest, v.first ≤ v.last := fun v hv => hrows v (List.mem_cons_of_mem _ hv)
    have ih := mergeNearest_append hyx before hordered' hrows'
    have hwrows := hrows w List.mem_cons_self
    have hwy : w.last + 1 < y.first := hw y (List.mem_append_right _ List.mem_cons_self)
    cases before with
    | nil =>
      simp only [List.cons_append, List.nil_append]
      rw [mergeNearest, if_neg (by omega), if_pos hyx]
    | cons v before =>
      obtain ⟨hv, -⟩ := List.pairwise_cons.mp hordered'
      have hvrows := hrows' v List.mem_cons_self
      have hvy : v.last + 1 < y.first := hv y (List.mem_append_right _ List.mem_cons_self)
      simp only [List.cons_append] at ih ⊢
      rw [mergeNearest, if_neg (by omega), if_pos (by omega), ih]

theorem mergeNearest_first {x z : Span} {rest : List Span} (hxz : x.last < z.first) (hx : x.first ≤ x.last)
    (hz : z.first ≤ z.last) : mergeNearest x (z :: rest) = ⟨x.first, z.last, x.causes ||| z.causes⟩ :: rest := by
  have hjoin : x.join z = ⟨x.first, z.last, x.causes ||| z.causes⟩ := by
    simp only [Span.join, Span.mk.injEq]
    refine ⟨?_, ?_, trivial⟩ <;> omega
  cases rest with
  | nil => simp only [mergeNearest, hjoin]
  | cons w rest => rw [mergeNearest, if_pos (by omega), hjoin]

theorem join_before_eq {x y : Span} (hyx : y.last < x.first) (hx : x.first ≤ x.last) (hy : y.first ≤ y.last) :
    x.join y = ⟨y.first, x.last, x.causes ||| y.causes⟩ := by
  simp only [Span.join, Span.mk.injEq]
  refine ⟨?_, ?_, trivial⟩ <;> omega

theorem mergeNearest_last {x y : Span} {before : List Span} (hordered : (before ++ [y]).Pairwise Before)
    (hrows : ∀ w ∈ before ++ [y], w.first ≤ w.last) (hyx : y.last < x.first) (hx : x.first ≤ x.last) :
    mergeNearest x (before ++ [y]) = before ++ [⟨y.first, x.last, x.causes ||| y.causes⟩] := by
  have hy := hrows y (by simp)
  rw [mergeNearest_append (by omega) before hordered hrows, mergeNearest, join_before_eq hyx hx hy]

theorem mergeNearest_between {x y z : Span} {before after : List Span}
    (hordered : (before ++ y :: z :: after).Pairwise Before) (hrows : ∀ w ∈ before ++ y :: z :: after, w.first ≤ w.last)
    (hyx : y.last < x.first) (hxz : x.last < z.first) (hx : x.first ≤ x.last) :
    (x.first - y.last - 1 ≤ z.first - x.last - 1 →
        mergeNearest x (before ++ y :: z :: after) =
          before ++ ⟨y.first, x.last, x.causes ||| y.causes⟩ :: z :: after) ∧
      (z.first - x.last - 1 < x.first - y.last - 1 →
        mergeNearest x (before ++ y :: z :: after) =
          before ++ y :: ⟨x.first, z.last, x.causes ||| z.causes⟩ :: after) := by
  have hy := hrows y (by simp)
  have hz := hrows z (by simp)
  have hjoin : x.join z = ⟨x.first, z.last, x.causes ||| z.causes⟩ := by
    simp only [Span.join, Span.mk.injEq]
    refine ⟨?_, ?_, trivial⟩ <;> omega
  rw [mergeNearest_append (by omega) before hordered hrows, mergeNearest, if_neg (by omega), if_neg (by omega)]
  refine ⟨fun hnear => ?_, fun hnear => ?_⟩
  · rw [if_pos (by omega), join_before_eq hyx hx hy]
  · rw [if_neg (by omega), hjoin]

/-! ## The addition -/

theorem addSpan_of_ahead {first last : Nat} {cause : SpanCause} {s : State} (hrows : first ≤ last) (hlast : last ≤ 4294967295)
    (hahead : s.map.eClosed ≤ last) :
    let merged := mergeSpan ⟨first, last, cause.bit⟩ s.map.spans
    let t : State := { s with map := { s.map with spans := merged.1 } }
    addSpan first last cause s = if merged.2 then raise .spanMerge t else t := by
  have hfirst : min first Config.rcMax = first := Nat.min_eq_left (Nat.le_trans hrows hlast)
  have hlast' : min last Config.rcMax = last := Nat.min_eq_left hlast
  unfold addSpan
  simp only
  rw [hfirst, hlast', if_neg (Nat.not_lt.mpr hahead)]

/-- Settles O30, by the steps of R86 and the overflow merge of R87. -/
theorem spanAdditionCoversItsGlass : Obligations.SpanAdditionCoversItsGlass := by
  refine ⟨addSpan_clamped, fun first last cause s hrows hlast hlength => ?_⟩
  have hmin : min last 4294967295 = last := Nat.min_eq_left hlast
  have hminFirst : min first 4294967295 = first := Nat.min_eq_left (Nat.le_trans hrows hlast)
  have htouches : (s.map.spans.filter fun y => decide (y.first ≤ last + 1 ∧ first ≤ y.last + 1)) =
      s.map.spans.filter (Span.touches first last) := by
    refine List.filter_congr fun y _ => ?_
    simp [Span.touches]
  have huntouched : (s.map.spans.filter fun y => !decide (y.first ≤ last + 1 ∧ first ≤ y.last + 1)) =
      s.map.spans.filter fun y => !Span.touches first last y := by
    refine List.filter_congr fun y _ => ?_
    simp [Span.touches]
  refine ⟨fun hbehind => addSpan_of_released cause (by rw [hmin]; exact hbehind), fun hahead => ?_⟩
  have hspans : (addSpan first last cause s).map.spans = (mergeSpan ⟨first, last, cause.bit⟩ s.map.spans).1 := by
    rw [addSpan_spans cause (by rw [hmin]; exact hahead), hmin, hminFirst]
  have hadd := addSpan_of_ahead (cause := cause) hrows hlast hahead
  obtain ⟨hcovered, hkept⟩ := mergeSpan_covers ⟨first, last, cause.bit⟩ s.map.spans
  refine ⟨by rw [hspans]; exact hcovered, by rw [hspans]; exact hkept, by rw [hspans]; exact mergeSpan_length _ hlength,
    ?_, ?_, addSpan_frame _ _ _ s, addSpan_map_frame _ _ _ s⟩
  · intro hroom
    rw [htouches] at hroom ⊢
    rw [huntouched]
    have hmerge := mergeSpan_of_room (x := ⟨first, last, cause.bit⟩) hroom
    rw [foldl_join_eq] at hmerge
    rw [hspans]
    rw [hmerge] at hadd ⊢
    refine ⟨by rw [hadd]; rfl, ?_⟩
    obtain ⟨before, after, hlist, heq, hbefore, hafter⟩ := insertOrdered_eq_append (fun a b : Span => a.first < b.first) _ _
    refine ⟨before, after, hlist.symm, heq, fun y hy => ?_, fun y hy => ?_⟩
    · simpa using hbefore y hy
    · simpa using hafter y hy
  · intro htouch hfull
    rw [htouches] at htouch
    have hmerge := mergeSpan_of_full (x := ⟨first, last, cause.bit⟩) htouch hfull
    rw [hspans]
    rw [hmerge] at hadd ⊢
    refine ⟨by rw [hadd]; rfl, fun hordered hlengths => ⟨?_, ?_, ?_⟩⟩
    · intro z rest hlist hz
      simp only
      rw [hlist] at hlengths ⊢
      exact mergeNearest_first hz hrows (hlengths z List.mem_cons_self)
    · intro before y hlist hy
      simp only
      rw [hlist] at hordered hlengths ⊢
      exact mergeNearest_last hordered hlengths hy hrows
    · intro before y z after hlist hy hz
      simp only
      rw [hlist] at hordered hlengths ⊢
      exact mergeNearest_between (x := ⟨first, last, cause.bit⟩) hordered hlengths hy hz hrows

end Sys2Proof.Proofs.SpanCover
end

section
/-!
The machine, reset and the transfers (sections 2.3, 2.4 and 11.6): what a step runs, what a reset leaves, and what every
transfer does whatever its command.
-/

namespace Sys2Proof.Proofs.Machine

open Sys2Proof Sys2Proof.Machine

/-! ## Steps and resets -/

/-- Settles O1, by the two cases of `step`. -/
theorem stepRunsTheFrontCommand : Obligations.StepRunsTheFrontCommand :=
  ⟨fun _ _ _ => rfl, fun s h => by simp [step, h]⟩

/-- Every command that no master sends has a next state. -/
theorem exec_next_of_no_transfer {i : Instr} (h : encode i = none) (s : State) : ∃ t, exec i s = .next t := by
  cases i <;> cases h <;> exact ⟨_, rfl⟩

/-- Settles O2: a command that a master sends is an empty transfer or one transfer, and both have a next state. -/
theorem everyWellFormedCommandCompletes : Obligations.EveryWellFormedCommandCompletes := by
  intro c s hw
  cases he : encode c with
  | none => exact exec_next_of_no_transfer he s
  | some tr =>
    rcases exec_eq_transfer hw he with ⟨l, tail, rfl⟩ | ⟨w, b, act, -, heq⟩
    · exact ⟨_, rfl⟩
    · exact ⟨_, heq s⟩

/-- Settles O3, by the threshold of 2 µs. -/
theorem resetReturnsEveryBlockToItsStart : Obligations.ResetReturnsEveryBlockToItsStart := by
  intro s ns
  refine ⟨rfl, fun h => ?_, fun h => ?_, rfl⟩
  · exact congrArg Host.Outcome.next (if_pos h)
  · exact congrArg Host.Outcome.next (if_neg (Nat.not_le.mpr h))

/-- Settles O4: the reset values are those the model's `State.reset` writes. -/
theorem valuesAfterReset : Obligations.ValuesAfterReset := by
  refine ⟨rfl, rfl, rfl, rfl, rfl, rfl, rfl, rfl, rfl, rfl, rfl, fun l => ?_, rfl, rfl, rfl, rfl, rfl, rfl, fun i => ?_, rfl,
    rfl, rfl, ?_, rfl, rfl, rfl, fun i => ?_⟩
  · cases l <;> exact ⟨rfl, rfl, rfl, rfl, rfl⟩
  · simp [State.reset]
  · decide
  · simp [State.reset]

/-! ## While the internal reset is asserted -/

theorem step_of_a_block_in_reset {s : State} (h : s.inReset = true) {c : Instr}
    (hc : c ∈ [Instr.encPulse, .tick, .stoppedSet, .timeStep, .deadlineEvent, .commit, .heldCommit, .expiry, .entryTake,
      .backgroundEntryComplete, .detectionEntryComplete, .markEntryComplete, .gapEntryComplete, .pieceTake,
      .cullPieceClose, .platePieceClose]) : exec c s = .next s := by
  simp only [List.mem_cons, List.not_mem_nil, or_false] at hc
  rcases hc with rfl | rfl | rfl | rfl | rfl | rfl | rfl | rfl | rfl | rfl | rfl | rfl | rfl | rfl | rfl | rfl
  case' inr.inr.inl => exact dueStep_in_reset h _
  case' inr.inr.inr.inl => exact dueStep_in_reset h _
  case' inr.inr.inr.inr.inr.inr.inl => exact dueStep_in_reset h _
  all_goals exact blockStep_in_reset h _

/-- Settles O5: a step of a block does nothing, and a transfer reads zeros. -/
theorem nothingHappensWhileResetIsAsserted : Obligations.NothingHappensWhileResetIsAsserted := by
  intro s h
  refine ⟨fun c hc => step_of_a_block_in_reset h hc, fun i tr hw he => ?_⟩
  rcases exec_eq_transfer hw he with ⟨l, tail, rfl⟩ | ⟨w, b, act, hwords, heq⟩
  · cases he
    show execEmptyTransfer l tail s = _
    unfold execEmptyTransfer
    rw [if_pos h]
    rfl
  · rw [heq, transfer_in_reset h, hwords]
    rfl

/-! ## The laws at reset -/

/-- Settles O53: the reset values are those of a reset that has ended, and every law's reset case holds. -/
theorem lawsHoldAtReset : Obligations.LawsHoldAtReset := by
  have hsetup : Setup.SetupAndSwitch State.reset :=
    Setup.keeps_of_empty rfl
      (Setup.clear_lineClear (s := State.reset) rfl rfl rfl ⟨rfl, by simp [State.reset]⟩ rfl rfl rfl rfl)
  have hplan : Plan.InOrder State.reset :=
    Plan.inOrder_of_empty Plan.confFits_default (fun x hx => by cases hx) rfl rfl rfl
  refine ⟨⟨Nat.zero_le _, Nat.zero_le _, Nat.le_refl _, by simp [State.reset, Intake.entries]⟩, ?_, ?_, ?_, ⟨rfl, ?_⟩,
    hsetup.1, hsetup.2, (Plan.planLaw_iff _).mpr ⟨hsetup, hplan⟩⟩
  · simp [CapacityLaw, State.reset]
  · exact (FlawMap.flawMapLaw_iff _).mpr (FlawMap.mapFits_nil rfl (Nat.zero_le _))
  · exact (Spans.blindSpanLaw_iff _).mpr (Spans.blind_of_lineClear rfl rfl rfl)
  · simp [State.reset]

end Sys2Proof.Proofs.Machine
end

section
/-!
The travel unit and the clock (chapter 1): what a pulse, a tick, the stopped flag, a step of the time of day and a shift close
each leave.
-/

namespace Sys2Proof.Proofs.TravelUnit

open Sys2Proof Sys2Proof.Machine

/-! ## The compares -/

theorem raiseDeadline_of_reached {conf : Conf} {t : Travel} {d : Nat} (h : t.deadline = some d)
    (hp : conf.commitPoint d ≤ t.p) : t.raiseDeadline conf = { t with deadline := none, deadlineRaised := some d } := by
  simp [Travel.raiseDeadline, h, hp]

theorem raiseDeadline_of_ahead {conf : Conf} {t : Travel} {d : Nat} (h : t.deadline = some d)
    (hp : t.p < conf.commitPoint d) : t.raiseDeadline conf = t := by
  simp [Travel.raiseDeadline, h, Nat.not_le.mpr hp]

theorem raiseExpiry_of_passed {conf : Conf} {t : Travel} {w : ExpiryWatch} (h : t.expiry = some w)
    (hp : conf.expiryThreshold w.target < t.p) :
    t.raiseExpiry conf = { t with expiry := none, expiryRaised := t.expiryRaised ++ [w.seq] } := by
  simp [Travel.raiseExpiry, h, hp]

theorem raiseExpiry_of_ahead {conf : Conf} {t : Travel} {w : ExpiryWatch} (h : t.expiry = some w)
    (hp : t.p ≤ conf.expiryThreshold w.target) : t.raiseExpiry conf = t := by
  simp [Travel.raiseExpiry, h, Nat.not_lt.mpr hp]

/-! ## The pulse -/

/-- The travel unit with a pulse counted, before the compares. -/
def pulseCounted (conf : Conf) (t : Travel) : Travel :=
  { t with
    p := (pulseCount t.p t.remainder conf.encoderScale).1
    remainder := (pulseCount t.p t.remainder conf.encoderScale).2
    lastPulse := 0
    stopped := false }

theorem pulse_eq (conf : Conf) (t : Travel) :
    t.pulse conf = ((pulseCounted conf t).raiseDeadline conf).raiseExpiry conf := rfl

/-- The compares change of the travel unit the compares alone. -/
theorem pulse_frame_counts (conf : Conf) (t : Travel) :
    { t.pulse conf with
      deadline := t.deadline, deadlineRaised := t.deadlineRaised, expiry := t.expiry, expiryRaised := t.expiryRaised } =
      pulseCounted conf t := by
  let erase := fun u : Travel =>
    { u with
      deadline := t.deadline, deadlineRaised := t.deadlineRaised, expiry := t.expiry, expiryRaised := t.expiryRaised }
  calc erase (((pulseCounted conf t).raiseDeadline conf).raiseExpiry conf)
      = erase ((pulseCounted conf t).raiseDeadline conf) := (congrArg erase (raiseExpiry_frame conf _) :)
    _ = erase (pulseCounted conf t) := (congrArg erase (raiseDeadline_frame conf _) :)

theorem pulse_deadline (conf : Conf) (t : Travel) :
    (t.pulse conf).deadline = ((pulseCounted conf t).raiseDeadline conf).deadline ∧
      (t.pulse conf).deadlineRaised = ((pulseCounted conf t).raiseDeadline conf).deadlineRaised := by
  rw [pulse_eq, raiseExpiry_deadline, raiseExpiry_deadlineRaised]
  exact ⟨rfl, rfl⟩

theorem pulseCount_of_le {p r u : Nat} (h : p + (r + u) / 1000 ≤ 4294967295) :
    pulseCount p r u = (p + (r + u) / 1000, (r + u) % 1000) := if_pos h

theorem pulseCount_of_lt {p r u : Nat} (h : 4294967295 < p + (r + u) / 1000) : pulseCount p r u = (4294967295, 999) :=
  if_neg (Nat.not_le.mpr h)

/-- P and the remainder after a pulse, where P stays in range and where it would pass its greatest value (R2, R3). -/
theorem pulse_p (conf : Conf) (t : Travel) :
    let sum := t.remainder + conf.encoderScale
    (t.p + sum / 1000 ≤ 4294967295 →
        (t.pulse conf).p = t.p + sum / 1000 ∧ (t.pulse conf).remainder = sum - 1000 * (sum / 1000)) ∧
      (4294967295 < t.p + sum / 1000 → (t.pulse conf).p = 4294967295 ∧ (t.pulse conf).remainder = 999) := by
  have hp : (t.pulse conf).p = (pulseCount t.p t.remainder conf.encoderScale).1 :=
    (congrArg Travel.p (pulse_frame_counts conf t) :)
  have hrem : (t.pulse conf).remainder = (pulseCount t.p t.remainder conf.encoderScale).2 :=
    (congrArg Travel.remainder (pulse_frame_counts conf t) :)
  rw [hp, hrem]
  refine ⟨fun h => ?_, fun h => ?_⟩
  · rw [pulseCount_of_le h]
    exact ⟨rfl, by simp only; omega⟩
  · rw [pulseCount_of_lt h]
    exact ⟨rfl, rfl⟩

theorem pulse_deadline_armed {conf : Conf} {t : Travel} {d : Nat} (h : t.deadline = some d) :
    (conf.commitPoint d ≤ (t.pulse conf).p → (t.pulse conf).deadline = none ∧ (t.pulse conf).deadlineRaised = some d) ∧
      ((t.pulse conf).p < conf.commitPoint d →
        (t.pulse conf).deadline = some d ∧ (t.pulse conf).deadlineRaised = t.deadlineRaised) := by
  have hp : (t.pulse conf).p = (pulseCounted conf t).p := (congrArg Travel.p (pulse_frame_counts conf t) :)
  obtain ⟨hdeadline, hraised⟩ := pulse_deadline conf t
  rw [hp, hdeadline, hraised]
  refine ⟨fun hreached => ?_, fun hahead => ?_⟩
  · rw [raiseDeadline_of_reached (t := pulseCounted conf t) h hreached]
    exact ⟨rfl, rfl⟩
  · rw [raiseDeadline_of_ahead (t := pulseCounted conf t) h hahead]
    exact ⟨h, rfl⟩

theorem pulse_deadline_disarmed {conf : Conf} {t : Travel} (h : t.deadline = none) :
    (t.pulse conf).deadline = none ∧ (t.pulse conf).deadlineRaised = t.deadlineRaised := by
  obtain ⟨hdeadline, hraised⟩ := pulse_deadline conf t
  rw [hdeadline, hraised, raiseDeadline_of_none conf (t := pulseCounted conf t) h]
  exact ⟨h, rfl⟩

theorem pulse_expiry_armed {conf : Conf} {t : Travel} {w : ExpiryWatch} (h : t.expiry = some w) :
    (conf.expiryThreshold w.target < (t.pulse conf).p →
        (t.pulse conf).expiry = none ∧ (t.pulse conf).expiryRaised = t.expiryRaised ++ [w.seq]) ∧
      ((t.pulse conf).p ≤ conf.expiryThreshold w.target →
        (t.pulse conf).expiry = some w ∧ (t.pulse conf).expiryRaised = t.expiryRaised) := by
  have hbefore : ((pulseCounted conf t).raiseDeadline conf).expiry = some w := by rw [raiseDeadline_expiry]; exact h
  have hraised : ((pulseCounted conf t).raiseDeadline conf).expiryRaised = t.expiryRaised :=
    raiseDeadline_expiryRaised conf _
  rw [pulse_eq]
  refine ⟨fun hpassed => ?_, fun hahead => ?_⟩
  · rw [raiseExpiry_p] at hpassed
    rw [raiseExpiry_of_passed hbefore hpassed, hraised]
    exact ⟨rfl, rfl⟩
  · rw [raiseExpiry_p] at hahead
    rw [raiseExpiry_of_ahead hbefore hahead]
    exact ⟨hbefore, hraised⟩

theorem pulse_expiry_disarmed {conf : Conf} {t : Travel} (h : t.expiry = none) :
    (t.pulse conf).expiry = none ∧ (t.pulse conf).expiryRaised = t.expiryRaised := by
  have hbefore : ((pulseCounted conf t).raiseDeadline conf).expiry = none := by rw [raiseDeadline_expiry]; exact h
  rw [pulse_eq, raiseExpiry_of_none conf hbefore]
  exact ⟨hbefore, raiseDeadline_expiryRaised conf _⟩

/-- Settles O6: P by R2 and R3, and each compare by whether it is armed and P has reached its target. -/
theorem pulseCountsTravelAndRaisesCompares : Obligations.PulseCountsTravelAndRaisesCompares := by
  intro s h
  refine ⟨pulse s, execEncPulse_of_working h, ?_⟩
  have hcounts := pulse_frame_counts s.conf s.travel
  rw [pulse_travel]
  exact ⟨pulse_p s.conf s.travel, (congrArg Travel.lastPulse hcounts :), (congrArg Travel.stopped hcounts :),
    fun d hd => pulse_deadline_armed hd, pulse_deadline_disarmed, fun w hw => pulse_expiry_armed hw, pulse_expiry_disarmed,
    (congrArg Travel.seconds hcounts :), (congrArg Travel.ms hcounts :), pulse_frame s⟩

/-! ## STALE (R33) -/

theorem evaluateStale_of_condition {s : State} (harmed : s.links.staleArmed = true) (hcondition : s.staleCondition = true) :
    (evaluateStale s).links =
      { s.links with staleArmed := false, gantry := { s.links.gantry with flags := s.links.gantry.flags ||| 2 } } := by
  unfold evaluateStale
  rw [harmed, hcondition]
  rfl

theorem evaluateStale_of_not {s : State} (h : ¬(s.links.staleArmed = true ∧ s.staleCondition = true)) :
    evaluateStale s = s := by
  unfold evaluateStale
  rw [if_neg (by simpa using h)]

theorem staleCondition_iff (s : State) :
    s.staleCondition = true ↔ s.conf.staleDistance ≠ 0 ∧ s.conf.staleDistance < s.travel.p - s.map.w := by
  simp [State.staleCondition]

/-- Settles O7: a pulse evaluates STALE where it changes P outside SETUP, and the evaluation is that of R33. -/
theorem pulseRaisesStaleOncePerFall : Obligations.PulseRaisesStaleOncePerFall := by
  intro s t hworking hexec
  rw [show exec .encPulse s = .next (pulse s) from execEncPulse_of_working hworking] at hexec
  obtain rfl := Host.Outcome.next.inj hexec
  have htravel : (pulse s).travel = s.travel.pulse s.conf := pulse_travel s
  rw [htravel]
  refine ⟨fun ⟨hmode, hp, harmed, hdistance, hfall⟩ => ?_, fun hnot => ?_⟩
  · have hcondition : ({ s with travel := s.travel.pulse s.conf } : State).staleCondition = true :=
      (staleCondition_iff _).mpr ⟨hdistance, hfall⟩
    unfold pulse
    simp only
    rw [if_pos (by simp [hmode, hp])]
    exact evaluateStale_of_condition (s := { s with travel := s.travel.pulse s.conf }) harmed hcondition
  · unfold pulse
    simp only
    split
    next hevaluates =>
      simp only [bne_iff_ne, ne_eq, Bool.and_eq_true] at hevaluates
      rw [evaluateStale_of_not]
      rintro ⟨harmed, hcondition⟩
      obtain ⟨hdistance, hfall⟩ := (staleCondition_iff _).mp hcondition
      exact hnot ⟨hevaluates.1, hevaluates.2, harmed, hdistance, hfall⟩
    next => rfl

/-! ## The tick and the stopped flag (R12, R13) -/

theorem exec_tick_of_working {s : State} (h : Working s) : exec .tick s = .next { s with travel := s.travel.tick } := by
  show blockStep (fun s => { s with travel := s.travel.tick }) s = _
  rw [blockStep_of_working h]
  exact congrArg Host.Outcome.next (setRisenLevels_of_fields rfl rfl rfl rfl)

/-- Settles O8, by whether the millisecond count carries over, and by the stopped flag that is due. -/
theorem ticksCountTimeAndStopTheLine : Obligations.TicksCountTimeAndStopTheLine := by
  refine ⟨fun s hworking => ⟨fun hms => ?_, fun hms => ?_⟩, fun s hreset hlast hstopped => ?_⟩
  · rw [exec_tick_of_working hworking]
    simp [Travel.tick, hms, Config.stoppedTicks]
  · rw [exec_tick_of_working hworking]
    simp [Travel.tick, Nat.not_lt.mpr hms, hms, Config.stoppedTicks]
  · show dueStep settleStop s = _
    have hdue : s.stopIsDue = true := by simp [State.stopIsDue, hlast, hstopped, Config.stoppedTicks]
    rw [dueStep_of_not_reset hreset, settleStop, if_pos hdue]
    rfl

/-! ## The time of day and the shift close (R13, R173, R175, R176) -/

theorem shiftStartingAt_of_none {table : Vector ShiftStart 4} {second : Nat}
    (h : ∀ i : Fin 4, table[i].enabled = true → table[i].start ≠ second) : shiftStartingAt table second = none := by
  unfold shiftStartingAt
  rw [List.findIdx?_eq_none_iff]
  intro e he
  obtain ⟨i, hi, rfl⟩ := List.mem_iff_getElem.mp he
  have hi4 : i < 4 := by simpa using hi
  have hentry := h ⟨i, hi4⟩
  simp only [Vector.getElem_toList, Bool.and_eq_false_imp, beq_eq_false_iff_ne]
  exact hentry

theorem shiftStartingAt_of_first {table : Vector ShiftStart 4} {second : Nat} {i : Fin 4}
    (henabled : table[i].enabled = true) (hstart : table[i].start = second)
    (hfirst : ∀ j : Fin 4, j < i → table[j].enabled = true → table[j].start ≠ second) :
    shiftStartingAt table second = some i.val := by
  unfold shiftStartingAt
  rw [List.findIdx?_eq_some_iff_getElem]
  refine ⟨by simp, by simpa using ⟨henabled, hstart⟩, fun j hj => ?_⟩
  have hentry := hfirst ⟨j, by omega⟩ hj
  simpa using hentry

/-- The part with a second of the time of day counted, before the shift may close. -/
def secondCounted (s : State) : State :=
  ({ s with travel := { s.travel with seconds := nextSecond s.travel.seconds, stepDue := false } } : State).count
    (Counts.addSecond s.travel.stopped)

theorem exec_timeStep_of_due {s : State} (hreset : s.inReset = false) (hdue : s.travel.stepDue = true) :
    exec .timeStep s =
      .next
        (match shiftStartingAt s.accounts.table (nextSecond s.travel.seconds) with
          | some entry => closeShift (nextSecond s.travel.seconds) entry (secondCounted s)
          | none => secondCounted s) := by
  show dueStep settleStep s = _
  rw [dueStep_of_not_reset hreset, settleStep, if_pos hdue]
  rfl

/-- Settles O9: the second is counted by the stopped flag, and the first enabled entry that starts at it closes the shift. -/
theorem timeStepsCountSecondsAndCloseShifts : Obligations.TimeStepsCountSecondsAndCloseShifts := by
  refine ⟨fun s hreset hdue => ⟨fun hnone => ?_, fun i henabled hstart hfirst => ?_⟩, fun s time cause => rfl⟩
  · rw [exec_timeStep_of_due hreset hdue]
    rw [shiftStartingAt_of_none (second := nextSecond s.travel.seconds) hnone]
    cases hstopped : s.travel.stopped <;> simp [secondCounted, hstopped] <;> rfl
  · rw [exec_timeStep_of_due hreset hdue]
    rw [shiftStartingAt_of_first (second := nextSecond s.travel.seconds) henabled hstart hfirst]
    cases hstopped : s.travel.stopped <;> simp [secondCounted, hstopped] <;> rfl

end Sys2Proof.Proofs.TravelUnit
end

section
/-!
Commands of every link, and what the acceptance table of section 2.4 refuses (chapter 2).
-/

namespace Sys2Proof.Proofs.Commands

open Sys2Proof Sys2Proof.Machine

/-! ## Transfers that change no block -/

theorem exec_emptyTransfer {s : State} (h : Working s) (l : Link) (tail : Nat) :
    exec (.emptyTransfer l tail) s = .next (s.setLink l { s.link l with shifted := [] }) := by
  show execEmptyTransfer l tail s = _
  unfold execEmptyTransfer
  rw [if_neg (by simp [h.1]), settle_of_quiet h.2]
  rfl

theorem exec_unknownCommand {s : State} (h : Working s) (l : Link) {code : Byte} (arg : Byte) (b : Body)
    (hcode : codeDefined code = false) :
    exec (.unknownCommand l code arg b) s = .next (transferred l b code ⟨.unknown, .none, []⟩ s) := by
  show execUnknownCommand l code arg b s = _
  unfold execUnknownCommand
  rw [if_neg (by simp [hcode]), transfer_of_working h, setRisenLevels_self]
  exact congrArg Host.Outcome.next (setPending_shiftOut l b code ⟨.unknown, .none, []⟩ s)

theorem exec_nop {s : State} (h : Working s) (l : Link) {arg : Byte} {b : Body} (hwords : arg.toNat ≤ b.data.length) :
    exec (.nop l arg b) s = .next (transferred l b 0x00 (Reply.done []) s) := by
  have haccepted : (commonEntry 0x00 arg.toNat).refusal l b s.mode = none := by
    rw [refusal_common, if_neg (Nat.not_lt.mpr hwords)]
  exact command_answer h haccepted rfl

theorem exec_nop_short {s : State} (h : Working s) (l : Link) {arg : Byte} {b : Body} (hwords : b.data.length < arg.toNat) :
    exec (.nop l arg b) s = .next (refusedFor l b 0x00 .short s) := by
  have hrefused : (commonEntry 0x00 arg.toNat).refusal l b s.mode = some .short := by
    rw [refusal_common, if_pos hwords]
  exact command_refused h hrefused _

/-- The command a transfer spells does not read the bits after the last complete word. -/
def TailFree (i : Body → Instr) : Prop :=
  ∀ (data : List Word) (tail tail' : Nat) (s : State), exec (i ⟨data, tail⟩) s = exec (i ⟨data, tail'⟩) s

theorem tailFree_ite {p : Prop} [Decidable p] {i j : Body → Instr} (hi : TailFree i) (hj : TailFree j) :
    TailFree fun b => if p then i b else j b := by
  intro data tail tail' s
  by_cases hp : p
  · simpa only [if_pos hp] using hi data tail tail' s
  · simpa only [if_neg hp] using hj data tail tail' s

theorem tailFree_confRow (l : Link) (arg : Byte) : TailFree (confRow l arg) := by
  intro data tail tail' s
  unfold confRow
  split
  case h_18 => exact tailFree_ite (fun _ _ _ _ => rfl) (fun _ _ _ _ => rfl) data tail tail' s
  all_goals rfl

theorem tailFree_rcpRow (l : Link) (arg : Byte) : TailFree (rcpRow l arg) := by
  refine tailFree_ite (fun _ _ _ _ => rfl) fun data tail tail' s => ?_
  split <;> rfl

/-- No command reads the bits after the last complete word (R17). -/
theorem tailFree_ofCommandWord (l : Link) (code arg : Byte) : TailFree (ofCommandWord l code arg) := by
  intro data tail tail' s
  have hfree : ∀ {i : Body → Instr}, TailFree i → exec (i ⟨data, tail⟩) s = exec (i ⟨data, tail'⟩) s :=
    fun h => h data tail tail' s
  unfold ofCommandWord
  split
  case h_11 => exact hfree (tailFree_ite (fun _ _ _ _ => rfl) fun _ _ _ _ => rfl)
  case h_14 =>
    exact hfree (tailFree_ite (fun _ _ _ _ => rfl) (tailFree_ite (fun _ _ _ _ => rfl) (tailFree_ite (fun _ _ _ _ => rfl)
      fun _ _ _ _ => rfl)))
  case h_15 => exact hfree (tailFree_confRow l arg)
  case h_17 => exact hfree (tailFree_ite (fun _ _ _ _ => rfl) fun _ _ _ _ => rfl)
  case h_18 => exact hfree (tailFree_ite (fun _ _ _ _ => rfl) fun _ _ _ _ => rfl)
  case h_23 => exact hfree (tailFree_rcpRow l arg)
  case h_24 => exact hfree (tailFree_ite (fun _ _ _ _ => rfl) fun _ _ _ _ => rfl)
  case h_25 => exact hfree (tailFree_ite (fun _ _ _ _ => rfl) (tailFree_ite (fun _ _ _ _ => rfl) fun _ _ _ _ => rfl))
  all_goals rfl

theorem exec_tail (l : Link) (words : List Word) (tail tail' : Nat) (s : State) :
    exec (decodeTransfer l words tail) s = exec (decodeTransfer l words tail') s := by
  cases words with
  | nil => rfl
  | cons w data => exact tailFree_ofCommandWord l (w.extractLsb' 8 8) (w.extractLsb' 0 8) data tail tail' s

/-- Settles O10. -/
theorem transfersThatChangeNoBlock : Obligations.TransfersThatChangeNoBlock :=
  ⟨fun _ l h => ⟨exec_emptyTransfer h l, fun _ arg b => exec_unknownCommand h l arg b, fun _ _ => exec_nop h l,
    fun _ _ => exec_nop_short h l⟩, fun s l words tail tail' => exec_tail l words tail tail' s⟩

/-! ## EVT and MASK (R28 to R30) -/

theorem exec_evt {s : State} (h : Working s) (l : Link) (arg : Byte) (b : Body) :
    exec (.evt l arg b) s =
      .next
        (transferred l b 0x01 (Reply.done [(s.link l).flags.setWidth 16]) (s.setLink l { s.link l with flags := 0 })) := by
  have haccepted : (commonEntry 0x01 0).refusal l b s.mode = none := by simp [refusal_common]
  exact command_changes h haccepted (by simp [clearFlags, shiftOut, byteWord]) rfl rfl rfl rfl

theorem and_not_eq_zero_iff {x d : BitVec 8} : x &&& ~~~d = 0 ↔ x &&& d = x := by
  rw [BitVec.eq_of_getLsbD_eq_iff, BitVec.eq_of_getLsbD_eq_iff]
  simp
  exact ⟨fun h i hi hx => h i hi hx hi, fun h i hi hx _ => h i hi hx⟩

/-- A MASK data word stores all its bits when the stored mask is the word itself. -/
theorem maskDiscards_eq_false_iff (l : Link) (w : Word) :
    maskDiscards l w = false ↔ w = (storedMask l w).setWidth 16 := by
  unfold maskDiscards storedMask
  generalize definedFlags l = d
  rw [Bool.or_eq_false_iff, bne_eq_false_iff_eq, bne_eq_false_iff_eq, and_not_eq_zero_iff]
  have hlow : (w.extractLsb' 0 8).toNat = w.toNat % 256 := by simp [BitVec.extractLsb'_toNat]
  have hhigh : (w.extractLsb' 8 8).toNat = w.toNat / 256 % 256 := by
    simp [BitVec.extractLsb'_toNat, Nat.shiftRight_eq_div_pow]
  have hbound := w.isLt
  generalize w.extractLsb' 0 8 = low at *
  generalize w.extractLsb' 8 8 = high at *
  generalize low &&& d = stored
  have hstored : (stored.setWidth 16).toNat = stored.toNat := by simp; omega
  have hlt := stored.isLt
  rw [← BitVec.toNat_inj, ← BitVec.toNat_inj, ← BitVec.toNat_inj (x := w), hstored, hlow, hhigh]
  simp only [BitVec.ofNat_eq_ofNat, BitVec.toNat_ofNat]
  omega

theorem maskReply_eq (l : Link) (w : Word) :
    maskReply l w =
      if w = (storedMask l w).setWidth 16 then Reply.done [(storedMask l w).setWidth 16]
      else Reply.adjusted .clamped [(storedMask l w).setWidth 16] := by
  unfold maskReply byteWord
  cases hdiscards : maskDiscards l w with
  | false => rw [if_neg (by simp), if_pos ((maskDiscards_eq_false_iff l w).mp hdiscards)]
  | true =>
    rw [if_pos rfl, if_neg fun heq => ?_]
    rw [(maskDiscards_eq_false_iff l w).mpr heq] at hdiscards
    cases hdiscards

theorem exec_mask {s : State} (h : Working s) (l : Link) (arg : Byte) (w : Word) (rest : List Word) (tail : Nat) :
    exec (.mask l arg ⟨w :: rest, tail⟩) s =
      .next (transferred l ⟨w :: rest, tail⟩ 0x02 (maskReply l w) (setMask l w s)) := by
  have haccepted : (commonEntry 0x02 1).refusal l ⟨w :: rest, tail⟩ s.mode = none := by simp [refusal_common]
  have hlevels : ∀ n, levelFlags (shiftOut l n s) l = levelFlags s l := by cases l <;> exact fun _ => rfl
  refine command_changes h haccepted ?_ rfl rfl rfl rfl
  simp only [List.getD_cons_zero, Prod.mk.injEq, and_true, setMask, hlevels]
  simp [shiftOut]

/-- Settles O11. -/
theorem evtAndMaskActOnTheirLink : Obligations.EvtAndMaskActOnTheirLink := by
  refine ⟨fun s => ⟨attention_iff s, ready_iff s, routeWaiting_iff s, ?_⟩, fun s l arg b h => exec_evt h l arg b,
    fun s l arg w rest tail h => ?_⟩
  · simp only [starved_iff, activeOrder_eq_none_iff, wants_iff]
  · have hexec := exec_mask h l arg w rest tail
    rw [maskReply_eq] at hexec
    cases l <;> exact hexec

end Sys2Proof.Proofs.Commands
end

section
/-!
The acceptance table of section 2.4: what the mode and the count of data words refuse, and that the words of a command
decode to it.
-/

namespace Sys2Proof.Proofs.Acceptance

open Sys2Proof Sys2Proof.Machine Sys2Proof.Proofs.Links

/-! ## The checks of an entry, on its own link -/

theorem belongs_iff (a : Acceptance) (l : Link) : a.belongs l = true ↔ a.owner = some l ∨ a.owner = none := by
  unfold Acceptance.belongs
  cases a.owner <;> simp

theorem refusal_mode {a : Acceptance} {l : Link} {m : Mode} (howner : a.owner = some l ∨ a.owner = none)
    (hmode : a.accepts m = false) (b : Body) : a.refusal l b m = some .mode := by
  simp [Acceptance.refusal, (belongs_iff a l).mpr howner, hmode]

theorem refusal_short {a : Acceptance} {l : Link} {m : Mode} {b : Body} (howner : a.owner = some l ∨ a.owner = none)
    (hmode : a.accepts m = true) (hwords : b.data.length < a.fixed) : a.refusal l b m = some .short := by
  simp [Acceptance.refusal, (belongs_iff a l).mpr howner, hmode, hwords]

theorem notSetup_setup : notSetup .setup = false := rfl

theorem notSetup_of_ne {m : Mode} (h : m ≠ .setup) : notSetup m = true := by simp [notSetup, h]

theorem onlySetup_of_ne {m : Mode} (h : m ≠ .setup) : onlySetup m = false := by simp [onlySetup, h]

/-- The modes that accept a command whose count of words its code and argument give. -/
theorem accepts_of_entryOf {a : Acceptance} {l : Link} {code arg : Byte} {b : Body} {i : Instr} (h : EntryOf a l code arg b i)
    {m : Mode} (hmode : refusedInSetup code = true → m ≠ .setup) (hconf : code ≠ 0x31) : a.accepts m = true := by
  obtain ⟨-, -, -, hsetup, -, hany⟩ := h
  by_cases hrefused : refusedInSetup code = true
  · rw [hsetup hrefused]
    exact notSetup_of_ne (hmode hrefused)
  · rw [hany (by simpa using hrefused) hconf]
    rfl

theorem codeDefined_of_fixedWords : ∀ code arg : Byte, 0 < fixedWordsOf code arg → codeDefined code = true := by
  intro code arg h
  unfold fixedWordsOf at h
  split at h
  case h_19 => exact absurd h (Nat.lt_irrefl 0)
  all_goals rename_i hcode; simp [codeDefined, hcode]

theorem eq_ofNat_of_toNat_eq {x : Byte} {n : Nat} (h : x.toNat = n) : x = BitVec.ofNat 8 n := by
  rw [← h]
  exact (BitVec.ofNat_toNat 8 x).symm ▸ (BitVec.setWidth_eq x).symm

/-! ## CONF (R26) -/

theorem ofCommandWord_conf (l : Link) (arg : Byte) (b : Body) : ofCommandWord l 0x31 arg b = confRow l arg b := rfl

/-- An argument beyond the plain items is looked up among the lanes and the destinations. -/
theorem exec_confRow_listed (l : Link) {arg : Byte} (b : Body) (s : State) (h : 0x10 < arg.toNat) :
    exec (confRow l arg b) s = confListed arg l b s := by
  unfold confRow
  split
  case h_18 => split <;> rfl
  all_goals omega

theorem listedItem_lane {arg : Byte} (h : 0x20 ≤ arg.toNat ∧ arg.toNat ≤ 0x2B) :
    listedItem arg = some (.lane ⟨arg.toNat - 0x20, by omega⟩) := dif_pos h

theorem listedItem_dest {arg : Byte} (h : 0x30 ≤ arg.toNat ∧ arg.toNat ≤ 0x37) :
    listedItem arg = some (.dest ⟨arg.toNat - 0x30, by omega⟩) := by
  unfold listedItem
  rw [dif_neg (by omega), dif_pos h]

theorem listedItem_eq_none {arg : Byte} (hlane : ¬(0x20 ≤ arg.toNat ∧ arg.toNat ≤ 0x2B))
    (hdest : ¬(0x30 ≤ arg.toNat ∧ arg.toNat ≤ 0x37)) : listedItem arg = none := by
  unfold listedItem
  rw [dif_neg hlane, dif_neg hdest]

theorem confListed_of_some {arg : Byte} {item : ConfItem} (h : listedItem arg = some item) (l : Link) (b : Body) (s : State) :
    confListed arg l b s = confCommand item l b s := by
  simp only [confListed, h]

theorem confListed_of_none {s : State} (hs : Working s) {arg : Byte} (h : listedItem arg = none) (b : Body) :
    confListed arg .supervisor b s = .next (refusedFor .supervisor b 0x31 .range s) := by
  have haccepted : (supervisorEntry 0x31 anyMode 0).refusal .supervisor b s.mode = none := by
    rw [refusal_supervisor, if_neg (by simp [anyMode]), if_neg (Nat.not_lt_zero _)]
  simp only [confListed, h]
  exact command_answer hs haccepted rfl

/-- The words of the items, by argument: two for D_cut, the net zone and the lanes. -/
theorem exec_confRow_item (l : Link) (arg : Byte) (b : Body)
    (harg : arg.toNat ≤ 0x10 ∨ (0x20 ≤ arg.toNat ∧ arg.toNat ≤ 0x2B) ∨ (0x30 ≤ arg.toNat ∧ arg.toNat ≤ 0x37)) :
    ∃ item : ConfItem, (∀ s, exec (confRow l arg b) s = confCommand item l b s) ∧
      item.fixed = (if arg = 0x01 ∨ arg = 0x0A ∨ (0x20 ≤ arg.toNat ∧ arg.toNat ≤ 0x2B) then 2 else 1) ∧
      (item.accepts = anyMode ∨ ¬0x30 ≤ arg.toNat ∧ item.accepts = onlySetup) := by
  rcases harg with hplain | hlane | hdest
  · unfold confRow
    split
    case h_18 => simp only [imp_false] at *; omega
    all_goals
      rename_i hitem
      obtain rfl := eq_ofNat_of_toNat_eq hitem
      exact ⟨_, fun _ => rfl, rfl, .inr ⟨by decide, rfl⟩⟩
  · exact ⟨_, fun s => (exec_confRow_listed l b s (by omega)).trans (confListed_of_some (listedItem_lane hlane) l b s),
      by rw [if_pos (.inr (.inr hlane))]; rfl, .inr ⟨by omega, rfl⟩⟩
  · have hone : ¬(arg = 0x01 ∨ arg = 0x0A ∨ (0x20 ≤ arg.toNat ∧ arg.toNat ≤ 0x2B)) := by
      rintro (rfl | rfl | h)
      · exact absurd hdest (by decide)
      · exact absurd hdest (by decide)
      · omega
    exact ⟨_, fun s => (exec_confRow_listed l b s (by omega)).trans (confListed_of_some (listedItem_dest hdest) l b s),
      by rw [if_neg hone]; rfl, .inl rfl⟩

/-- Settles O15. -/
theorem modesRefuseTheirCommands : Obligations.ModesRefuseTheirCommands := by
  intro s l w data tail hworking code arg howner
  obtain ⟨a, hentry⟩ := exists_entryOf l code arg ⟨data, tail⟩ (codeDefined_of_ownerOfCode howner)
  have hbelongs : a.owner = some l ∨ a.owner = none := .inl ((owner_of_entryOf hentry).trans howner)
  have ⟨_, _, _, hsetup, hconf, _⟩ := hentry
  refine ⟨fun hrefused hmode => ?_, fun hcode harg hmode => ?_, fun hcode harg => ?_⟩
  · exact hentry.refused hworking (refusal_mode hbelongs (by rw [hsetup hrefused, hmode]; rfl) _)
  · exact hentry.refused hworking (refusal_mode hbelongs (by rw [hconf hcode harg, onlySetup_of_ne hmode]) _)
  · obtain rfl : l = .supervisor := by
      rw [hcode] at howner
      exact (Option.some.inj howner).symm
    show exec (ofCommandWord .supervisor code arg ⟨data, tail⟩) s = _
    rw [hcode, ofCommandWord_conf, exec_confRow_listed _ _ _ (by omega)]
    exact confListed_of_none hworking (listedItem_eq_none (by omega) (by omega)) _

/-- Settles O16. -/
theorem shortTransfersAreRefused : Obligations.ShortTransfersAreRefused := by
  intro s l w data tail hworking code arg short
  refine ⟨fun howner hmode hwords => ?_, fun hlink hcode harg hwords => ?_, fun hlink hcode harg hwords => ?_⟩
  · have hdefined := codeDefined_of_fixedWords code arg (Nat.zero_lt_of_lt hwords)
    obtain ⟨a, hentry⟩ := exists_entryOf l code arg ⟨data, tail⟩ hdefined
    have ⟨_, _, hfixed, _⟩ := hentry
    have hconf : code ≠ 0x31 := by
      intro hcode
      rw [hcode] at hwords
      exact absurd hwords (Nat.not_lt_zero _)
    refine hentry.refused hworking (refusal_short ?_ (accepts_of_entryOf hentry hmode hconf) (Nat.lt_of_lt_of_le hwords hfixed))
    rwa [owner_of_entryOf hentry]
  · subst hlink
    obtain ⟨item, hruns, hfixed, haccepts⟩ := exec_confRow_item .supervisor arg ⟨data, tail⟩ (by omega)
    have hmode : item.accepts s.mode = true := by
      rcases haccepts with hany | ⟨hlow, honly⟩
      · rw [hany]; rfl
      · rw [honly, (harg.resolve_right fun h => hlow h.1).1]; rfl
    show exec (ofCommandWord .supervisor code arg ⟨data, tail⟩) s = _
    rw [hcode, ofCommandWord_conf, hruns]
    exact command_refused hworking (refusal_short (.inl rfl) hmode (by rw [← hfixed] at hwords; exact hwords)) _
  · subst hlink
    show exec (ofCommandWord .supervisor code arg ⟨data, tail⟩) s = _
    rw [hcode, show ofCommandWord .supervisor 0x34 arg ⟨data, tail⟩ = .patWrite .supervisor arg ⟨data, tail⟩ from
      if_neg (by rw [harg]; exact Bool.false_ne_true)]
    exact command_refused hworking (refusal_short (.inl rfl) rfl hwords) _

/-! ## The words of a command decode to it -/

theorem code_of_commandWord (code arg : Byte) : (commandWord code arg).extractLsb' 8 8 = code :=
  BitVec.extractLsb'_append_eq_left

theorem arg_of_commandWord (code arg : Byte) : (commandWord code arg).extractLsb' 0 8 = arg :=
  BitVec.extractLsb'_append_eq_right

/-- A command is the one its own command word spells. -/
theorem decode_transferOf (l : Link) (code arg : Byte) (b : Body) :
    decodeTransfer l (transferOf l code arg b).words (transferOf l code arg b).tail = ofCommandWord l code arg b := by
  show ofCommandWord l ((commandWord code arg).extractLsb' 8 8) ((commandWord code arg).extractLsb' 0 8) b = _
  rw [code_of_commandWord, arg_of_commandWord]

/-- The words that spell a command decode to it. -/
def Decodes (i : Instr) : Prop := ∀ tr, encode i = some tr → decodeTransfer tr.link tr.words tr.tail = i

theorem decodes_of_none {i : Instr} (h : encode i = none) : Decodes i := fun _ he => absurd (h.symm.trans he) (by simp)

theorem decodes_of_transfer {i : Instr} {l : Link} {code arg : Byte} {b : Body}
    (hencode : encode i = some (transferOf l code arg b)) (hdecode : ofCommandWord l code arg b = i) : Decodes i := by
  intro tr he
  obtain rfl := Option.some.inj (hencode.symm.trans he)
  exact (decode_transferOf l code arg b).trans hdecode

theorem ofCommandWord_unknown (l : Link) {code : Byte} (arg : Byte) (b : Body) (h : codeDefined code = false) :
    ofCommandWord l code arg b = .unknownCommand l code arg b := by
  unfold ofCommandWord
  split
  case h_32 => rfl
  all_goals rename_i hcode; simp [codeDefined, hcode] at h

theorem confRow_lane (l : Link) {arg : Byte} (b : Body) (h : confLaneItem arg = true) :
    confRow l arg b = .confLaneExtent l arg b := by
  have hlane : 0x20 ≤ arg.toNat ∧ arg.toNat ≤ 0x2B := by simpa [confLaneItem] using h
  unfold confRow
  split
  case h_18 => exact if_pos h
  all_goals omega

theorem confRow_other (l : Link) {arg : Byte} (b : Body) (hlane : confLaneItem arg = false)
    (hplain : confPlainItem arg = false) : confRow l arg b = .confDestination l arg b := by
  have hbeyond : 0x10 < arg.toNat := by simpa [confPlainItem] using hplain
  unfold confRow
  split
  case h_18 => exact if_neg (by simp [hlane])
  all_goals omega

theorem rcpRow_kind (l : Link) {arg : Byte} (b : Body) (hreads : rcpReads arg = false)
    (harg : arg ≠ 8 ∧ arg ≠ 9 ∧ arg ≠ 10) : rcpRow l arg b = .rcpWriteKind l arg b := by
  obtain ⟨h8, h9, h10⟩ := harg
  unfold rcpRow
  rw [if_neg (by simp [hreads])]
  split
  case h_4 => rfl
  case h_1 hn => exact absurd (eq_ofNat_of_toNat_eq hn) h8
  case h_2 hn => exact absurd (eq_ofNat_of_toNat_eq hn) h9
  case h_3 hn => exact absurd (eq_ofNat_of_toNat_eq hn) h10

/-- A command of the table decodes from its words: rows that share a code are told apart by their argument. -/
theorem decodes_of_argWf (i : Instr) (h : i.argWf = true) : Decodes i := by
  cases i
  case emptyTransfer l tail =>
    intro tr he
    obtain rfl := Option.some.inj he
    rfl
  case unknownCommand l code arg b =>
    exact decodes_of_transfer rfl (ofCommandWord_unknown l arg b (by simpa [Instr.argWf] using h))
  case doneOk l arg b => exact decodes_of_transfer rfl (if_neg (by simpa [Instr.argWf] using h))
  case modeRead l arg b =>
    have ⟨⟨h0, h1⟩, h2⟩ : (arg ≠ 0 ∧ arg ≠ 1) ∧ arg ≠ 2 := by simpa [Instr.argWf] using h
    exact decodes_of_transfer rfl ((if_neg h0).trans ((if_neg h1).trans (if_neg h2)))
  case shiftsRead l arg b => exact decodes_of_transfer rfl (if_neg (by simpa [Instr.argWf] using h))
  case patWrite l arg b => exact decodes_of_transfer rfl (if_neg (by simpa [Instr.argWf] using h))
  case patRead l arg b => exact decodes_of_transfer rfl (if_pos h)
  case rcpWriteKind l arg b =>
    have ⟨⟨⟨hreads, h8⟩, h9⟩, h10⟩ : ((rcpReads arg = false ∧ arg ≠ 8) ∧ arg ≠ 9) ∧ arg ≠ 10 := by
      simpa [Instr.argWf] using h
    exact decodes_of_transfer rfl (rcpRow_kind l b hreads ⟨h8, h9, h10⟩)
  case rcpRead l arg b => exact decodes_of_transfer rfl (if_pos h)
  case rcpArm l arg b => exact decodes_of_transfer rfl (if_neg (by simpa [Instr.argWf] using h))
  case sampleRead l arg b =>
    have ⟨h0, h1⟩ : arg ≠ 0 ∧ arg ≠ 1 := by simpa [Instr.argWf] using h
    exact decodes_of_transfer rfl ((if_neg h0).trans (if_neg h1))
  case confLaneExtent l arg b => exact decodes_of_transfer rfl (confRow_lane l b h)
  case confDestination l arg b =>
    have ⟨hlane, hplain⟩ : confLaneItem arg = false ∧ confPlainItem arg = false := by simpa [Instr.argWf] using h
    exact decodes_of_transfer rfl (confRow_other l b hlane hplain)
  case powerOn | pinReset | internalResetEnd | encPulse | tick | stoppedSet | timeStep | deadlineEvent | commit
    | heldCommit | expiry | entryTake | backgroundEntryComplete | detectionEntryComplete | markEntryComplete
    | gapEntryComplete | pieceTake | cullPieceClose | platePieceClose => exact decodes_of_none rfl
  all_goals exact decodes_of_transfer rfl rfl

/-- Settles O17. -/
theorem decodeOfEncodeIsTheCommand : Obligations.DecodeOfEncodeIsTheCommand := by
  intro i tr hwf hencode
  have ⟨hargs, _⟩ : i.argWf = true ∧ i.tailWf = true := by simpa [WellFormed] using hwf
  exact decodes_of_argWf i hargs tr hencode

end Sys2Proof.Proofs.Acceptance
end

section
/-!
What a command does once its checks are passed, in terms of the part before the transfer: the rules the commands' own
statements use.
-/

namespace Sys2Proof.Proofs.Accepted

open Sys2Proof Sys2Proof.Machine

/-! ## The checks are passed -/

theorem passes_gantry {code : Byte} {accepts : Mode → Bool} {fixed : Nat} {b : Body} {m : Mode} (hmode : accepts m = true)
    (hwords : fixed ≤ b.data.length) : (gantryEntry code accepts fixed).refusal .gantry b m = none := by
  rw [refusal_gantry, if_neg (by simp [hmode]), if_neg (Nat.not_lt.mpr hwords)]

theorem passes_cutter {code : Byte} {fixed : Nat} {b : Body} {m : Mode} (hwords : fixed ≤ b.data.length) :
    (cutterEntry code fixed).refusal .cutter b m = none := by
  rw [refusal_cutter, if_neg (Nat.not_lt.mpr hwords)]

theorem passes_supervisor {code : Byte} {accepts : Mode → Bool} {fixed : Nat} {b : Body} {m : Mode}
    (hmode : accepts m = true) (hwords : fixed ≤ b.data.length) :
    (supervisorEntry code accepts fixed).refusal .supervisor b m = none := by
  rw [refusal_supervisor, if_neg (by simp [hmode]), if_neg (Nat.not_lt.mpr hwords)]

theorem notSetup_of_ne {m : Mode} (h : m ≠ .setup) : notSetup m = true := by simp [notSetup, h]

/-! ## The part the command leaves -/

/-- An accepted command that lets no level condition rise: `t` is the part it leaves. -/
theorem command_lowers {s t : State} (h : Working s) {a : Acceptance} {l : Link} {b : Body}
    (hr : a.refusal l b s.mode = none) {act : State → State × Reply} {r : Reply}
    (hact : act (shiftOut l (b.data.length + 1) s) = (shiftOut l (b.data.length + 1) t, r))
    (hready : t.ready = true → s.ready = true) (hroute : t.routeWaiting = true → s.routeWaiting = true)
    (hstarved : t.starved = true → s.starved = true) :
    command a l b act s = .next (transferred l b a.code r t) := by
  have hlevels : setRisenLevels (shiftOut l (b.data.length + 1) s) (shiftOut l (b.data.length + 1) t) =
      shiftOut l (b.data.length + 1) t := setRisenLevels_of_same hready hroute hstarved
  rw [command_accepted h hr, hact, hlevels, setPending_shiftOut]

/-! ## Level flags that rise -/

theorem setIfRisen_eq (e : Event) (before after : Bool) (s : State) :
    setIfRisen e before after s = if before = false ∧ after = true then raise e s else s := by
  unfold setIfRisen
  cases before <;> cases after <;> rfl

/-- Where neither READY nor ROUTE rises, STARVED alone can. -/
theorem setRisenLevels_of_starved {old new : State} (hready : new.ready = true → old.ready = true)
    (hroute : new.routeWaiting = true → old.routeWaiting = true) :
    setRisenLevels old new = if old.starved = false ∧ new.starved = true then raise .starved new else new := by
  have hnoReady : ¬(old.ready = false ∧ new.ready = true) := fun ⟨hold, hnew⟩ => by rw [hready hnew] at hold; cases hold
  have hnoRoute : ¬(old.routeWaiting = false ∧ new.routeWaiting = true) := fun ⟨hold, hnew⟩ => by
    rw [hroute hnew] at hold; cases hold
  unfold setRisenLevels
  rw [setIfRisen_eq .ready, if_neg hnoReady, setIfRisen_eq .route, if_neg hnoRoute, setIfRisen_eq]

theorem raise_starved_shiftOut (l : Link) (n : Nat) (s : State) :
    raise .starved (shiftOut l n s) = shiftOut l n (raise .starved s) := by
  cases l <;> rfl

/-- An accepted command that can let STARVED rise, and no other level condition. -/
theorem command_starves {s t : State} (h : Working s) {a : Acceptance} {l : Link} {b : Body}
    (hr : a.refusal l b s.mode = none) {act : State → State × Reply} {r : Reply}
    (hact : act (shiftOut l (b.data.length + 1) s) = (shiftOut l (b.data.length + 1) t, r))
    (hready : t.ready = true → s.ready = true) (hroute : t.routeWaiting = true → s.routeWaiting = true) :
    command a l b act s =
      .next (transferred l b a.code r (if s.starved = false ∧ t.starved = true then raise .starved t else t)) := by
  have hlevels : setRisenLevels (shiftOut l (b.data.length + 1) s) (shiftOut l (b.data.length + 1) t) =
      if s.starved = false ∧ t.starved = true then raise .starved (shiftOut l (b.data.length + 1) t)
      else shiftOut l (b.data.length + 1) t := setRisenLevels_of_starved hready hroute
  rw [command_accepted h hr, hact, hlevels, raise_starved_shiftOut, ← apply_ite, setPending_shiftOut]

/-- The flags of every level condition that rises, on the links they belong to (R28). -/
theorem setRisenLevels_links (old new : State) :
    (setRisenLevels old new).links =
      { new.links with
        cutter :=
          { new.links.cutter with
            flags := new.links.cutter.flags ||| (if old.ready = false ∧ new.ready = true then 1 else 0) |||
              (if old.routeWaiting = false ∧ new.routeWaiting = true then 8 else 0) }
        supervisor :=
          { new.links.supervisor with
            flags := new.links.supervisor.flags ||| (if old.starved = false ∧ new.starved = true then 2 else 0) } } := by
  unfold setRisenLevels
  simp only [setIfRisen_eq]
  by_cases hready : old.ready = false ∧ new.ready = true <;>
    by_cases hroute : old.routeWaiting = false ∧ new.routeWaiting = true <;>
      by_cases hstarved : old.starved = false ∧ new.starved = true <;>
        simp [hready, hroute, hstarved, raise, State.setLink, State.link, Links.set, Links.get, Event.link, Event.flag, flagBit]

end Sys2Proof.Proofs.Accepted
end

section
/-!
CONF: what the write of an item stores and replies (R26).
-/

namespace Sys2Proof.Proofs.Configuration

open Sys2Proof Sys2Proof.Machine Sys2Proof.Proofs.Accepted Sys2Proof.Proofs.Acceptance

/-- An item's value is judged by the configuration and the order list alone. -/
theorem allowed_shiftOut (item : ConfItem) (ws : List Word) (l : Link) (n : Nat) (s : State) :
    item.allowed ws (shiftOut l n s) = item.allowed ws s := by
  cases item <;> rfl

theorem refs_shiftOut (item : ConfItem) (ws : List Word) (l : Link) (n : Nat) (s : State) :
    item.refs ws (shiftOut l n s) = item.refs ws s := by
  cases item <;> rfl

theorem write_shiftOut (item : ConfItem) (ws : List Word) (l : Link) (n : Nat) (s : State) :
    item.write ws (shiftOut l n s) = shiftOut l n (item.write ws s) := by
  unfold ConfItem.write
  rw [refs_shiftOut]
  rfl

/-- A CONF that passes the checks of R18 is written when its value is allowed, and refused RANGE when it is not. -/
theorem conf_outcome {s : State} (h : Working s) {b : Body} {item : ConfItem} {i : Instr} {ok : Prop}
    (hruns : exec i s = confCommand item .supervisor b s) (hmode : item.accepts s.mode = true)
    (hwords : item.fixed ≤ b.data.length) (hok : item.allowed b.data s = true ↔ ok) :
    (ok →
        exec i s =
          .next
            (transferred .supervisor b 0x31 (Reply.done (item.words (item.store b.data s.conf))) (item.write b.data s))) ∧
      (¬ok → exec i s = .next (refusedFor .supervisor b 0x31 .range s)) := by
  have haccepted : (supervisorEntry 0x31 item.accepts item.fixed).refusal .supervisor b s.mode = none :=
    passes_supervisor hmode hwords
  rw [hruns]
  refine ⟨fun hvalue => command_changes h haccepted ?_ rfl rfl rfl rfl, fun hvalue => command_answer h haccepted ?_⟩
  · unfold confAct
    rw [allowed_shiftOut, if_pos (hok.mpr hvalue), write_shiftOut]
    rfl
  · unfold confAct
    rw [allowed_shiftOut, if_neg fun hallowed => hvalue (hok.mp hallowed)]

theorem inRange_iff (low high n : Nat) : inRange low high n = true ↔ low ≤ n ∧ n ≤ high := by simp [inRange]

theorem extentAllowed_iff (a : Across) : extentAllowed a = true ↔ a.xl ≤ 8191 ∧ a.xr ≤ 8191 := by simp [extentAllowed]

theorem cminAllowed_iff (n : Nat) (s : State) :
    cminAllowed n s = true ↔
      100 ≤ n ∧ n ≤ 2000 ∧ n ≤ s.conf.cmax ∧ n ≤ s.conf.ls ∧ s.conf.tLate ≤ n ∧
        ∀ o ∈ s.production.orders, n ≤ o.lp ∧ ∀ l, o.short = some l → n ≤ l := by
  simp [cminAllowed, inRange, ordersAllow, and_assoc, Option.all_eq_true]

theorem valueAt_le (ws : List Word) (i : Nat) : valueAt ws i ≤ 65535 := by
  have hlt := (ws.getD i 0).isLt
  show (ws.getD i 0).toNat ≤ 65535
  omega

theorem words_store_lane (lane : Fin 12) (ws : List Word) (c : Conf) :
    (ConfItem.lane lane).words ((ConfItem.lane lane).store ws c) =
      [word (extentOf ws).xl, word (extentOf ws).xr] := by
  show [word (c.lanes.set lane (extentOf ws))[lane].xl, word (c.lanes.set lane (extentOf ws))[lane].xr] = _
  simp

theorem words_store_dest (item : Fin 8) (ws : List Word) (c : Conf) :
    (ConfItem.dest item).words ((ConfItem.dest item).store ws c) = [word (valueAt ws 0)] := by
  show [word (c.dest.set item (valueAt ws 0))[item]] = _
  simp

theorem exec_confLane {s : State} {lane : Fin 12} {arg : Byte} (harg : arg.toNat = 0x20 + lane) (b : Body) :
    exec (.confLaneExtent .supervisor arg b) s = confCommand (.lane lane) .supervisor b s := by
  have hlane : 0x20 ≤ arg.toNat ∧ arg.toNat ≤ 0x2B := by omega
  have hitem : (⟨arg.toNat - 0x20, by omega⟩ : Fin 12) = lane := Fin.ext (by simp [harg])
  exact confListed_of_some ((listedItem_lane hlane).trans (by rw [hitem])) _ b s

theorem exec_confDest {s : State} {item : Fin 8} {arg : Byte} (harg : arg.toNat = 0x30 + item) (b : Body) :
    exec (.confDestination .supervisor arg b) s = confCommand (.dest item) .supervisor b s := by
  have hdest : 0x30 ≤ arg.toNat ∧ arg.toNat ≤ 0x37 := by omega
  have hitem : (⟨arg.toNat - 0x30, by omega⟩ : Fin 8) = item := Fin.ext (by simp [harg])
  exact confListed_of_some ((listedItem_dest hdest).trans (by rw [hitem])) _ b s

/-- Settles O18. -/
theorem confWritesItsItemInSetup : Obligations.ConfWritesItsItemInSetup := by
  intro s b h n m a c outcome cminOk
  have honly : s.mode = .setup → onlySetup s.mode = true := fun hmode => by rw [hmode]; rfl
  have hscale : inRange 1 65535 n = true ↔ 1 ≤ n := by
    rw [inRange_iff]
    exact and_iff_left (valueAt_le b.data 0)
  refine ⟨fun hmode hwords => ?_, fun hmode hwords => ?_, fun hwords item arg harg => ?_⟩
  · exact
      ⟨conf_outcome h (item := .encoderScale) rfl (honly hmode) hwords hscale,
        conf_outcome h (item := .dCommit) rfl (honly hmode) hwords (inRange_iff _ _ _),
        conf_outcome h (item := .tLate) rfl (honly hmode) hwords decide_eq_true_iff,
        conf_outcome h (item := .clockSelect) rfl (honly hmode) hwords decide_eq_true_iff,
        conf_outcome h (item := .staleDistance) rfl (honly hmode) hwords decide_eq_true_iff,
        conf_outcome h (item := .ku) rfl (honly hmode) hwords decide_eq_true_iff,
        conf_outcome h (item := .kd) rfl (honly hmode) hwords decide_eq_true_iff,
        conf_outcome h (item := .joinTol) rfl (honly hmode) hwords decide_eq_true_iff,
        conf_outcome h (item := .gapTol) rfl (honly hmode) hwords decide_eq_true_iff,
        conf_outcome h (item := .cmin) rfl (honly hmode) hwords (cminAllowed_iff _ _),
        conf_outcome h (item := .cmax) rfl (honly hmode) hwords (inRange_iff _ _ _),
        conf_outcome h (item := .cullMargin) rfl (honly hmode) hwords decide_eq_true_iff,
        conf_outcome h (item := .ls) rfl (honly hmode) hwords (inRange_iff _ _ _),
        conf_outcome h (item := .q) rfl (honly hmode) hwords (inRange_iff _ _ _),
        conf_outcome h (item := .tDev) rfl (honly hmode) hwords decide_eq_true_iff⟩
  · refine ⟨conf_outcome h (item := .dCut) rfl (honly hmode) hwords (inRange_iff _ _ _),
      conf_outcome h (item := .netZone) rfl (honly hmode) hwords (extentAllowed_iff _), fun lane arg harg => ?_⟩
    have hlane := conf_outcome h (exec_confLane harg b) (honly hmode) hwords (extentAllowed_iff a)
    rwa [words_store_lane] at hlane
  · have hdest := conf_outcome h (exec_confDest harg b) rfl hwords decide_eq_true_iff
    rwa [words_store_dest] at hdest

end Sys2Proof.Proofs.Configuration
end

section
/-!
The intake commands of the gantry link (chapter 3): DET, BKG, MARK, GAP and GSTAT.
-/

namespace Sys2Proof.Proofs.IntakeQueue

open Sys2Proof Sys2Proof.Machine Sys2Proof.Proofs.Accepted

/-! ## The words of the records -/

theorem detectionRecords_of_short {n : Nat} {ws : List Word} (h : ws.length < 5) : detectionRecords n ws = [] := by
  match n, ws with
  | 0, _ => rfl
  | _ + 1, [] | _ + 1, [_] | _ + 1, [_, _] | _ + 1, [_, _, _] | _ + 1, [_, _, _, _] => rfl
  | _ + 1, _ :: _ :: _ :: _ :: _ :: _ => simp at h; omega

theorem exists_five_of_length {ws : List Word} (h : 5 ≤ ws.length) :
    ∃ w0 w1 w2 w3 w4 rest, ws = w0 :: w1 :: w2 :: w3 :: w4 :: rest := by
  match ws with
  | w0 :: w1 :: w2 :: w3 :: w4 :: rest => exact ⟨w0, w1, w2, w3, w4, rest, rfl⟩
  | [] | [_] | [_, _] | [_, _, _] | [_, _, _, _] => simp at h

theorem detectionRecords_spec (n : Nat) :
    ∀ ws : List Word, (detectionRecords n ws).length = min n (ws.length / 5) ∧
      ∀ i, i < min n (ws.length / 5) →
        (detectionRecords n ws)[i]? =
          some
            (rawDetection (ws.getD (5 * i) 0) (ws.getD (5 * i + 1) 0) (ws.getD (5 * i + 2) 0) (ws.getD (5 * i + 3) 0)
              (ws.getD (5 * i + 4) 0)) := by
  induction n with
  | zero => intro ws; simp [detectionRecords]
  | succ n ih =>
    intro ws
    by_cases hshort : ws.length < 5
    · rw [detectionRecords_of_short hshort, Nat.div_eq_of_lt hshort]
      simp
    · obtain ⟨w0, w1, w2, w3, w4, rest, rfl⟩ := exists_five_of_length (Nat.not_lt.mp hshort)
      obtain ⟨hlength, hget⟩ := ih rest
      have hcount : (w0 :: w1 :: w2 :: w3 :: w4 :: rest).length / 5 = rest.length / 5 + 1 :=
        Nat.add_div_right rest.length (Nat.zero_lt_succ 4)
      rw [hcount]
      refine ⟨by simp [detectionRecords, hlength], fun i hi => ?_⟩
      cases i with
      | zero => rfl
      | succ i => exact hget i (by omega)

theorem exists_two_of_length {ws : List Word} (h : 2 ≤ ws.length) : ∃ w0 w1 rest, ws = w0 :: w1 :: rest := by
  match ws with
  | w0 :: w1 :: rest => exact ⟨w0, w1, rest, rfl⟩
  | [] | [_] => simp at h

theorem sampleRecords_of_short {n : Nat} {ws : List Word} (h : ws.length < 2) : sampleRecords n ws = [] := by
  match n, ws with
  | 0, _ => rfl
  | _ + 1, [] | _ + 1, [_] => rfl
  | _ + 1, _ :: _ :: _ =>
    simp only [List.length_cons] at h
    omega

theorem sampleRecords_spec (n : Nat) :
    ∀ ws : List Word, (sampleRecords n ws).length = min n (ws.length / 2) ∧
      ∀ i, i < min n (ws.length / 2) →
        (sampleRecords n ws)[i]? = some (rawSample (ws.getD (2 * i) 0) (ws.getD (2 * i + 1) 0)) := by
  induction n with
  | zero => intro ws; simp [sampleRecords]
  | succ n ih =>
    intro ws
    by_cases hshort : ws.length < 2
    · rw [sampleRecords_of_short hshort, Nat.div_eq_of_lt hshort]
      simp
    · obtain ⟨w0, w1, rest, rfl⟩ := exists_two_of_length (Nat.not_lt.mp hshort)
      obtain ⟨hlength, hget⟩ := ih rest
      have hcount : (w0 :: w1 :: rest).length / 2 = rest.length / 2 + 1 :=
        Nat.add_div_right rest.length (Nat.zero_lt_succ 1)
      rw [hcount]
      refine ⟨by simp [sampleRecords, hlength], fun i hi => ?_⟩
      cases i with
      | zero => rfl
      | succ i => exact hget i (by omega)

theorem rawSample_eq (w0 w1 : Word) :
    rawSample w0 w1 =
      { level := w0.toNat % 4096
        lane := w1.toNat % 16
        channel := if w1.toNat / 16 % 2 = 1 then .r else .t } := by
  have hbit : w1.getLsbD 4 = decide (w1.toNat / 16 % 2 = 1) := by
    rw [BitVec.getLsbD, Nat.testBit_eq_decide_div_mod_eq]
  unfold rawSample
  simp only [hbit, BitVec.extractLsb'_toNat, channelOf, decide_eq_true_eq, Nat.shiftRight_zero, Nat.reducePow]

theorem channelOf_decide (p : Prop) [Decidable p] : channelOf (decide p) = if p then .r else .t := by
  simp only [channelOf, decide_eq_true_eq]

theorem rawDetection_fields (w0 w1 w2 w3 w4 : Word) :
    rawDetection w0 w1 w2 w3 w4 =
      { row := w0.toNat * 65536 + w1.toNat
        xStart := w2.toNat % 8192
        channel := if w2.toNat / 8192 % 2 = 1 then .r else .t
        width := w3.toNat % 256
        lane := w3.toNat / 256 % 16
        kind := FlawKind.ofCode (w3.toNat / 4096 % 8)
        peak := w4.toNat % 4096
        band := if w4.toNat / 4096 = 0 then 16 else w4.toNat / 4096 } := by
  rw [rawDetection_eq, channelOf_decide]

theorem laneOf_eq_some_iff (n : Nat) (lane : Fin 12) : laneOf n = some lane ↔ n = lane.val := by
  unfold laneOf
  by_cases h : n < 12
  · rw [dif_pos h, Option.some.injEq, Fin.ext_iff]
  · rw [dif_neg h]
    exact ⟨fun hnone => (nomatch hnone), fun heq => absurd (heq ▸ lane.isLt) h⟩

theorem wellFormedLane_eq_some_iff (lanes : Vector Across 12) (r : RawDetection) (lane : Fin 12) :
    wellFormedLane lanes r = some lane ↔
      r.lane = lane.val ∧ lanes[lane].xl ≤ r.xStart ∧ r.xStart < lanes[lane].xr := by
  unfold wellFormedLane
  cases hlane : laneOf r.lane with
  | none =>
    refine ⟨fun hnone => (nomatch hnone), fun ⟨heq, _⟩ => ?_⟩
    rw [(laneOf_eq_some_iff r.lane lane).mpr heq] at hlane
    cases hlane
  | some found =>
    have hfound := (laneOf_eq_some_iff r.lane found).mp hlane
    rw [hfound]
    by_cases hinside : lanes[found].xl ≤ r.xStart ∧ r.xStart < lanes[found].xr
    · simp only [if_pos hinside, Option.some.injEq]
      exact ⟨fun heq => heq ▸ ⟨rfl, hinside⟩, fun ⟨heq, _⟩ => Fin.ext heq⟩
    · simp only [if_neg hinside]
      exact ⟨fun hnone => (nomatch hnone), fun ⟨heq, hin⟩ => absurd (Fin.ext heq ▸ hin) hinside⟩

/-! ## The words shifted out are no business of the intake -/

theorem addSpan_shiftOut_gantry (n first last : Nat) (cause : SpanCause) (s : State) :
    addSpan first last cause (shiftOut .gantry n s) = shiftOut .gantry n (addSpan first last cause s) := by
  unfold addSpan
  rw [shiftOut_map]
  simp only []
  split
  · rfl
  · split <;> rfl

theorem droppedSpans_shiftOut (n : Nat) (dropped : List (Detection × Bool)) :
    ∀ s, droppedSpans dropped (shiftOut .gantry n s) = shiftOut .gantry n (droppedSpans dropped s) := by
  induction dropped with
  | nil => intro s; rfl
  | cons x dropped ih =>
    intro s
    simp only [droppedSpans, List.foldl_cons] at ih ⊢
    rw [addSpan_shiftOut_gantry, ih]

theorem entriesTaken_shiftOut (k n : Nat) (entered : List Entry) (lost : Bool) (s : State) :
    entriesTaken n entered lost (shiftOut .gantry k s) = shiftOut .gantry k (entriesTaken n entered lost s) := by
  cases lost <;> rfl

theorem droppedSpans_blocks (dropped : List (Detection × Bool)) :
    ∀ s, (droppedSpans dropped s).dispatcher = s.dispatcher ∧ (droppedSpans dropped s).production = s.production ∧
      (droppedSpans dropped s).mode = s.mode := by
  induction dropped with
  | nil => intro s; exact ⟨rfl, rfl, rfl⟩
  | cons x dropped ih =>
    intro s
    obtain ⟨hdispatcher, hproduction, hmode⟩ := ih (addSpan x.1.row x.1.lastRow .intake s)
    exact ⟨hdispatcher.trans (addSpan_dispatcher _ _ _ _), hproduction.trans (addSpan_production _ _ _ _),
      hmode.trans (addSpan_mode _ _ _ _)⟩

/-! ## DET (R39 to R42) -/

theorem exec_det {s t : State} (h : Working s) (hmode : s.mode ≠ .setup) {arg : Byte} {b : Body} {r : Reply}
    (hwords : 5 ≤ b.data.length)
    (hdet : det arg.toNat b.data (shiftOut .gantry (b.data.length + 1) s) =
      (shiftOut .gantry (b.data.length + 1) t, r))
    (hdispatcher : t.dispatcher = s.dispatcher) (hproduction : t.production = s.production) (hsame : t.mode = s.mode) :
    exec (.det .gantry arg b) s = .next (transferred .gantry b 0x10 r t) :=
  command_changes h (passes_gantry (notSetup_of_ne hmode) hwords) hdet (by rw [hdispatcher]) (by rw [hdispatcher])
    (by rw [hproduction]) hsame

theorem exec_det_range {s : State} (h : Working s) (hmode : s.mode ≠ .setup) {arg : Byte} {b : Body}
    (hwords : 5 ≤ b.data.length) (harg : arg.toNat = 0 ∨ 12 < arg.toNat) :
    exec (.det .gantry arg b) s = .next (refusedFor .gantry b 0x10 .range s) :=
  exec_det h hmode hwords (if_pos harg) rfl rfl rfl

theorem det_of_range {n : Nat} (hlow : 1 ≤ n) (hhigh : n ≤ 12) (ws : List Word) (s : State) :
    det n ws s =
      let t := (detectionRecords n ws).foldl takeDetection ⟨s, 0, false, false⟩
      (t.s, t.reply ((detectionRecords n ws).length == n)) := if_neg (by omega)

theorem bkg_of_range {n : Nat} (hlow : 1 ≤ n) (hhigh : n ≤ 16) (ws : List Word) (s : State) :
    bkg n ws s =
      let t := (sampleRecords n ws).foldl takeSample ⟨s, 0, false, false⟩
      (t.s, t.reply ((sampleRecords n ws).length == n)) := if_neg (by omega)

/-- A transfer of fewer records than asked for, or one that lost a record, is PARTIAL. -/
theorem reply_of_taking (s : State) (clamped : Bool) {entered records n : Nat} (hentered : entered ≤ records)
    (hrecords : records ≤ n) :
    (⟨s, 0 + entered, false || clamped, false || decide (entered < records)⟩ : Taking).reply (records == n) =
      if entered < n then Reply.adjusted .partly [word entered]
      else if clamped then Reply.adjusted .clamped [word entered]
      else Reply.done [word entered] := by
  unfold Taking.reply
  by_cases hall : entered < n
  · have hlost : (decide (entered < records) || !(records == n)) = true := by
      rcases Nat.lt_or_eq_of_le hentered with hlt | heq
      · simp [hlt]
      · simp; omega
    simp [hall, hlost]
  · have hlost : (decide (entered < records) || !(records == n)) = false := by simp; omega
    simp [hall, hlost]

/-- The counters after a transfer, by the lists of what entered and of what had no room. -/
theorem entriesTaken_of_lists {α β : Type} (n : Nat) (entered : List α) (entry : α → Entry) (dropped : List β) (s : State) :
    entriesTaken n (entered.map entry) (!dropped.isEmpty) s =
      { s with
        intake :=
          { s.intake with
            queue := s.intake.queue ++ entered.map entry
            received := (s.intake.received + n) % 65536
            dropped := bumped (n - entered.length) s.intake.dropped
            highWater :=
              if entered = [] then s.intake.highWater
              else max s.intake.highWater (s.intake.queue.length + entered.length)
            overflow := s.intake.overflow || !dropped.isEmpty }
        accounts :=
          { s.accounts with
            counts :=
              { s.accounts.counts with intakeDrops := bumped (n - entered.length) s.accounts.counts.intakeDrops } }
        links :=
          if dropped = [] then s.links
          else { s.links with gantry := { s.links.gantry with flags := s.links.gantry.flags ||| 1 } } } := by
  unfold entriesTaken
  simp only [List.length_map, List.map_eq_nil_iff]
  cases dropped <;> rfl

/-- Settles O19. -/
theorem detEntersItsRecords : Obligations.DetEntersItsRecords := by
  refine ⟨detectionRecords_spec, rawDetection_fields, wellFormedLane_eq_some_iff, ?_⟩
  intro s arg b h hmode hwords hreceived n p records sound room entered dropped lost saturated reply counted
  refine ⟨exec_det_range h hmode hwords, fun hlow hhigh => ?_⟩
  have hcounted : entriesTaken records.length (entered.map fun x => .detection x.1) (!dropped.isEmpty) s = counted :=
    entriesTaken_of_lists records.length entered _ dropped s
  obtain ⟨hdispatcher, hproduction, hsame⟩ := droppedSpans_blocks dropped counted
  refine exec_det h hmode hwords ?_ hdispatcher hproduction hsame
  have hentered : entered.length ≤ records.length :=
    Nat.le_trans (List.length_take_le' _ _) (List.length_filterMap_le _ _)
  have hrecords : records.length ≤ n := by
    rw [(detectionRecords_spec n b.data).1]
    exact Nat.min_le_left _ _
  have hfold := takeDetection_foldl records ⟨shiftOut .gantry (b.data.length + 1) s, 0, false, false⟩ hreceived
  rw [det_of_range hlow hhigh, hfold]
  have hleft :
      droppedSpans dropped
          (entriesTaken records.length (entered.map fun x => .detection x.1) (!dropped.isEmpty)
            (shiftOut .gantry (b.data.length + 1) s)) =
        shiftOut .gantry (b.data.length + 1) (droppedSpans dropped counted) := by
    rw [entriesTaken_shiftOut, droppedSpans_shiftOut, hcounted]
  exact Prod.ext hleft (reply_of_taking _ _ hentered hrecords)

/-! ## One record -/

/-- A DET of one record examines it. -/
theorem det_one (w0 w1 w2 w3 w4 : Word) (rest : List Word) (s : State) :
    det 1 (w0 :: w1 :: w2 :: w3 :: w4 :: rest) s =
      let t := takeDetection ⟨s, 0, false, false⟩ (rawDetection w0 w1 w2 w3 w4)
      (t.s, t.reply true) := rfl

theorem takeDetection_of_malformed {t : Taking} {r : RawDetection} (h : wellFormedLane t.s.conf.lanes r = none) :
    takeDetection t r = t.discard := by
  simp only [takeDetection, h]

theorem takeDetection_of_full {t : Taking} {r : RawDetection} {lane : Fin 12}
    (h : wellFormedLane t.s.conf.lanes r = some lane) (hfull : 64 ≤ t.s.intake.queue.length) :
    takeDetection t r =
      { t.drop with
        s := addSpan (r.entry t.s.travel.p lane).row (r.entry t.s.travel.p lane).lastRow .intake t.drop.s } := by
  have hroom : t.s.intake.full = true := decide_eq_true hfull
  simp only [takeDetection, h, hroom, if_true]

theorem takeDetection_of_room {t : Taking} {r : RawDetection} {lane : Fin 12}
    (h : wellFormedLane t.s.conf.lanes r = some lane) (hroom : t.s.intake.queue.length < 64) :
    takeDetection t r = t.enter (.detection (r.entry t.s.travel.p lane)) (decide (t.s.travel.p < r.row)) := by
  have hnotFull : t.s.intake.full = false := decide_eq_false (Nat.not_le.mpr hroom)
  simp only [takeDetection, h, hnotFull, Bool.false_eq_true, if_false]

theorem wellFormedLane_eq_none_of {lanes : Vector Across 12} {r : RawDetection}
    (h : 12 ≤ r.lane ∨ ∃ lane : Fin 12, r.lane = lane.val ∧ (r.xStart < lanes[lane].xl ∨ lanes[lane].xr ≤ r.xStart)) :
    wellFormedLane lanes r = none := by
  cases hlane : wellFormedLane lanes r with
  | none => rfl
  | some found =>
    obtain ⟨hfound, hleft, hright⟩ := (wellFormedLane_eq_some_iff lanes r found).mp hlane
    rcases h with hbeyond | ⟨lane, heq, houtside⟩
    · omega
    · obtain rfl : lane = found := Fin.ext (heq.symm.trans hfound)
      omega

/-- Settles O20. -/
theorem detRecordOutcomes : Obligations.DetRecordOutcomes := by
  intro s w0 w1 w2 w3 w4 rest tail h hmode b r p received dropped drops accounts
  have hrecord : rawDetection w0 w1 w2 w3 w4 = r := rawDetection_fields w0 w1 w2 w3 w4
  have hwords : 5 ≤ b.data.length := by simp [b]
  have hone : ∀ u, det (1 : Byte).toNat b.data u =
      ((takeDetection ⟨u, 0, false, false⟩ r).s, (takeDetection ⟨u, 0, false, false⟩ r).reply true) := fun u => by
    rw [← hrecord]
    exact det_one w0 w1 w2 w3 w4 rest u
  refine ⟨?_, fun hmalformed => ?_⟩
  · intro lane hlane hleft hright d
    have hwell := (wellFormedLane_eq_some_iff s.conf.lanes r lane).mpr ⟨hlane, hleft, hright⟩
    refine ⟨fun hroom => exec_det h hmode hwords ?_ rfl rfl rfl, fun hfull => ?_⟩
    · rw [hone, takeDetection_of_room hwell hroom]
      refine Prod.ext rfl ?_
      show (if (false || decide (p < r.row)) = true then Reply.adjusted .clamped [1] else Reply.done [1]) = _
      simp only [Bool.false_or, decide_eq_true_eq]
    · refine exec_det h hmode hwords ?_ (addSpan_dispatcher _ _ _ _) (addSpan_production _ _ _ _) (addSpan_mode _ _ _ _)
      rw [hone, takeDetection_of_full hwell hfull]
      exact Prod.ext (addSpan_shiftOut_gantry _ _ _ _ (dropForFull { s with intake := s.intake.receive })) rfl
  · have hwell : wellFormedLane s.conf.lanes r = none := wellFormedLane_eq_none_of hmalformed
    refine exec_det h hmode hwords ?_ rfl rfl rfl
    rw [hone, takeDetection_of_malformed hwell]
    rfl

/-! ## BKG (R43) -/

/-- Settles O21. -/
theorem bkgEntersItsSamples : Obligations.BkgEntersItsSamples := by
  refine ⟨sampleRecords_spec, rawSample_eq, laneOf_eq_some_iff, ?_⟩
  intro s arg b h hmode hwords hreceived n samples sound room entered dropped lost saturated
  have haccepted : (gantryEntry 0x11 notSetup 2).refusal .gantry b s.mode = none :=
    passes_gantry (notSetup_of_ne hmode) hwords
  refine ⟨fun hrange => command_answer h haccepted (if_pos hrange), fun hlow hhigh => ?_⟩
  have hcounted := entriesTaken_of_lists samples.length entered id dropped s
  rw [List.map_id] at hcounted
  have hentered : entered.length ≤ samples.length :=
    Nat.le_trans (List.length_take_le' _ _) (List.length_filterMap_le _ _)
  have hsamples : samples.length ≤ n := by
    rw [(sampleRecords_spec n b.data).1]
    exact Nat.min_le_left _ _
  have hfold := takeSample_foldl samples ⟨shiftOut .gantry (b.data.length + 1) s, 0, false, false⟩ hreceived
  refine command_changes h haccepted ?_ rfl rfl rfl rfl
  rw [bkg_of_range hlow hhigh, hfold]
  exact Prod.ext ((entriesTaken_shiftOut _ _ _ _ s).trans (congrArg (shiftOut .gantry _) hcounted))
    (reply_of_taking _ false hentered hsamples)

/-! ## MARK, GAP and GSTAT (R44, R45, R48) -/

theorem full_iff (q : Intake) : q.full = true ↔ 64 ≤ q.queue.length := decide_eq_true_iff

theorem exec_mark_full {s : State} (h : Working s) (hmode : s.mode ≠ .setup) {arg : Byte} {b : Body}
    (hwords : 2 ≤ b.data.length) (hfull : 64 ≤ s.intake.queue.length) :
    exec (.mark .gantry arg b) s = .next (refusedFor .gantry b 0x12 .full s) :=
  command_answer h (passes_gantry (notSetup_of_ne hmode) hwords) (if_pos ((full_iff s.intake).mpr hfull))

theorem exec_mark {s : State} (h : Working s) (hmode : s.mode ≠ .setup) {arg : Byte} {b : Body}
    (hwords : 2 ≤ b.data.length) (hroom : s.intake.queue.length < 64) :
    exec (.mark .gantry arg b) s =
      .next
        (transferred .gantry b 0x12 (markReply s (value32At b.data 0))
          (acceptEntry (.mark (min (value32At b.data 0) s.travel.p)) s)) :=
  command_changes h (passes_gantry (notSetup_of_ne hmode) hwords)
    (if_neg fun hfull => absurd ((full_iff s.intake).mp hfull) (Nat.not_le.mpr hroom)) rfl rfl rfl rfl

theorem gapCause_ofCode_eq_none {n : Nat} (h : n = 0 ∨ 3 < n) : GapCause.ofCode n = none := by
  unfold GapCause.ofCode
  split
  case h_4 => rfl
  all_goals omega

theorem exec_gap_range {s : State} (h : Working s) (hmode : s.mode ≠ .setup) {arg : Byte} {b : Body}
    (hwords : 4 ≤ b.data.length) (hrange : arg.toNat = 0 ∨ 3 < arg.toNat ∨ value32At b.data 2 < value32At b.data 0) :
    exec (.gap .gantry arg b) s = .next (refusedFor .gantry b 0x13 .range s) := by
  refine command_answer h (passes_gantry (notSetup_of_ne hmode) hwords) ?_
  unfold gapOver
  cases hcause : GapCause.ofCode arg.toNat with
  | none => rfl
  | some cause =>
    have hends : value32At b.data 2 < value32At b.data 0 := by
      refine Decidable.byContradiction fun hordered => ?_
      rw [gapCause_ofCode_eq_none (by omega)] at hcause
      cases hcause
    simp only [if_pos hends]

theorem exec_gap {s : State} (h : Working s) (hmode : s.mode ≠ .setup) {arg : Byte} {b : Body} {cause : GapCause}
    (hwords : 4 ≤ b.data.length) (hcause : GapCause.ofCode arg.toNat = some cause)
    (hordered : value32At b.data 0 ≤ value32At b.data 2) :
    (64 ≤ s.intake.queue.length →
        exec (.gap .gantry arg b) s = .next (refusedFor .gantry b 0x13 .full s)) ∧
      (s.intake.queue.length < 64 →
        exec (.gap .gantry arg b) s =
          .next
            (transferred .gantry b 0x13
              (if min (value32At b.data 2) s.travel.p ≤ s.map.w then Reply.adjusted .held [] else Reply.done [])
              (acceptEntry (.gap (value32At b.data 0) (value32At b.data 2) cause) s))) := by
  have haccepted : (gantryEntry 0x13 notSetup 4).refusal .gantry b s.mode = none :=
    passes_gantry (notSetup_of_ne hmode) hwords
  have hgap : ∀ u : State, gapOver arg.toNat (value32At b.data 0) (value32At b.data 2) u =
      if u.intake.full then (u, Reply.refused .full)
      else
        (acceptEntry (.gap (value32At b.data 0) (value32At b.data 2) cause) u,
          if min (value32At b.data 2) u.travel.p ≤ u.map.w then Reply.adjusted .held [] else Reply.done []) := by
    intro u
    simp only [gapOver, hcause, if_neg (Nat.not_lt.mpr hordered)]
  refine ⟨fun hfull => command_answer h haccepted ?_, fun hroom => command_changes h haccepted ?_ rfl rfl rfl rfl⟩
  · rw [hgap]
    exact if_pos ((full_iff s.intake).mpr hfull)
  · rw [hgap]
    exact if_neg fun hfull => absurd ((full_iff s.intake).mp hfull) (Nat.not_le.mpr hroom)

/-- Settles O22. -/
theorem markAndGapAreQueued : Obligations.MarkAndGapAreQueued := by
  intro s arg b h hmode p last queued
  refine ⟨exec_mark_full h hmode, exec_mark h hmode, exec_gap_range h hmode, fun cause harg hwords hordered => ?_⟩
  refine exec_gap h hmode hwords ?_ hordered
  subst harg
  cases cause <;> rfl

theorem exec_gstat {s : State} (h : Working s) (arg : Byte) (b : Body) :
    exec (.gstat .gantry arg b) s =
      .next (transferred .gantry b 0x14 (Reply.done (gstatWords s)) { s with intake := s.intake.afterRead }) :=
  command_changes h (passes_gantry rfl (Nat.zero_le _)) rfl rfl rfl rfl rfl

/-- The words of GSTAT, with the entry in process by its code (R48). -/
theorem word_entryCode (e : Option Entry) :
    word (entryCode e) =
      match e with
      | none => 0
      | some (.detection _) => 1
      | some (.background _ _ _) => 2
      | some (.mark _) => 3
      | some (.gap _ _ _) => 4 := by
  rcases e with _ | (_ | _ | _ | _) <;> rfl

/-- Settles O23. -/
theorem gstatReadsTheIntake : Obligations.GstatReadsTheIntake := by
  intro s arg b h
  rw [exec_gstat h, gstatWords, word_entryCode]
  rfl

end Sys2Proof.Proofs.IntakeQueue
end

section
/-!
The commands that read the part: ROUTE and CSTAT of the cutter link, FLAW, PLATE and WINDOW of the supervisor link.
-/

namespace Sys2Proof.Proofs.Reads

open Sys2Proof Sys2Proof.Machine Sys2Proof.Proofs.Accepted

/-! ## ROUTE and CSTAT (R149, R150) -/

theorem exec_route_refused {s : State} (h : Working s) {arg : Byte} (b : Body) {why : Reason}
    (hroutes : readRoutes arg.toNat (shiftOut .cutter (b.data.length + 1) s) =
      (shiftOut .cutter (b.data.length + 1) s, Reply.refused why)) :
    exec (.route .cutter arg b) s = .next (refusedFor .cutter b 0x22 why s) :=
  command_answer h (passes_cutter (Nat.zero_le _)) hroutes

theorem readRoutes_range {n : Nat} (h : n = 0 ∨ 8 < n) (s : State) : readRoutes n s = (s, Reply.refused .range) := if_pos h

theorem readRoutes_empty {n : Nat} {s : State} (hlow : 1 ≤ n) (hhigh : n ≤ 8) (h : s.dispatcher.routing = []) :
    readRoutes n s = (s, Reply.refused .empty) := by
  unfold readRoutes
  rw [if_neg (by omega), if_pos (by rw [h]; rfl)]

theorem readRoutes_some {n : Nat} {s : State} (hlow : 1 ≤ n) (hhigh : n ≤ 8) (h : s.dispatcher.routing ≠ []) :
    readRoutes n s =
      ({ s with dispatcher := { s.dispatcher with routing := s.dispatcher.routing.drop n } },
        Reply.done
          (word (min n s.dispatcher.routing.length) :: (s.dispatcher.routing.take n).flatMap routeWords)) := by
  unfold readRoutes
  rw [if_neg (by omega), if_neg (by simpa using h)]

/-- The oldest routing entries leave: ROUTE-waiting cannot rise. -/
theorem exec_route {s : State} (h : Working s) {arg : Byte} (b : Body) (hlow : 1 ≤ arg.toNat) (hhigh : arg.toNat ≤ 8)
    (hroutes : s.dispatcher.routing ≠ []) :
    exec (.route .cutter arg b) s =
      .next
        (transferred .cutter b 0x22
          (Reply.done
            (word (min arg.toNat s.dispatcher.routing.length) ::
              (s.dispatcher.routing.take arg.toNat).flatMap routeWords))
          { s with dispatcher := { s.dispatcher with routing := s.dispatcher.routing.drop arg.toNat } }) :=
  command_lowers h (passes_cutter (Nat.zero_le _)) (readRoutes_some hlow hhigh hroutes) id
    (fun _ => (routeWaiting_iff s).mpr hroutes) id

theorem routeWords_eq (e : RouteEntry) :
    routeWords e =
      [word e.seq,
        word
          (e.kind.code + 16 * e.column + 256 * e.dest +
            4096 * (match e.grade with
              | none => 0
              | some .a => 1
              | some .b => 2
              | some .c => 3
              | some .x => 4)),
        word e.plate] := by
  unfold routeWords
  rcases e.grade with _ | (_ | _ | _ | _) <;> rfl

theorem headSeq_eq (d : Dispatcher) : d.headSeq = (d.cuts.head?.map Cut.seq).getD 0 := by
  unfold Dispatcher.headSeq
  cases d.cuts <;> rfl

theorem foldedRows_eq (d : Dispatcher) : d.foldedRows = (d.merged.map Merged.count).getD 0 := by
  unfold Dispatcher.foldedRows
  cases d.merged <;> rfl

theorem exec_cstat {s : State} (h : Working s) (arg : Byte) (b : Body) :
    exec (.cstat .cutter arg b) s =
      .next (transferred .cutter b 0x23 (Reply.done (cstatWords s.dispatcher)) s) :=
  command_answer h (passes_cutter (Nat.zero_le _)) rfl

/-- Settles O39. -/
theorem routeAndCstatReadTheDispatcher : Obligations.RouteAndCstatReadTheDispatcher := by
  intro s arg b h n d entryWords
  have hwords : routeWords = entryWords := funext routeWords_eq
  refine ⟨fun hrange => exec_route_refused h b (readRoutes_range hrange _),
    fun hlow hhigh hnone => exec_route_refused h b (readRoutes_empty hlow hhigh hnone), fun hlow hhigh hsome => ?_, ?_⟩
  · rw [exec_route h b hlow hhigh hsome, hwords]
  · rw [exec_cstat h, cstatWords, headSeq_eq, foldedRows_eq]
    rfl

/-! ## FLAW (R92) -/

theorem flawsFrom_of_first {n : Nat} {before after : List FlawRecord} {f : FlawRecord} (hf : f.number = n)
    (hbefore : ∀ g ∈ before, g.number ≠ n) : flawsFrom n (before ++ f :: after) = f :: after := by
  unfold flawsFrom
  rw [List.dropWhile_append_of_pos (by simpa using hbefore), List.dropWhile_cons_of_neg (by simp [hf])]

theorem flawsFrom_of_none {n : Nat} {flaws : List FlawRecord} (h : ∀ g ∈ flaws, g.number ≠ n) :
    flawsFrom n flaws = [] := by
  unfold flawsFrom
  induction flaws with
  | nil => rfl
  | cons g flaws ih =>
    obtain ⟨hg, hflaws⟩ := List.forall_mem_cons.mp h
    rw [List.dropWhile_cons_of_pos (by simpa using hg)]
    exact ih hflaws

theorem exec_flaw {s : State} (h : Working s) {arg : Byte} {b : Body} (hwords : 1 ≤ b.data.length) {r : Reply}
    (hr : readFlaw arg.toNat (valueAt b.data 0) s = r) :
    exec (.flaw .supervisor arg b) s = .next (transferred .supervisor b 0x3C r s) :=
  command_answer h (passes_supervisor rfl hwords) (congrArg (Prod.mk _) hr)

theorem readFlaw_range {n : Nat} (h : 2 < n) (number : Nat) (s : State) :
    readFlaw n number s = Reply.refused .range := by
  unfold readFlaw
  split
  case h_4 => rfl
  all_goals omega

theorem readFlaw_at {s : State} {n : Nat} {f : FlawRecord} {after : List FlawRecord}
    (h : flawsFrom n s.map.flaws = f :: after) : readFlaw 0 n s = Reply.done (flawWords f) := by
  simp only [readFlaw, h]

theorem readFlaw_after {s : State} {n : Nat} {f g : FlawRecord} {rest : List FlawRecord}
    (h : flawsFrom n s.map.flaws = f :: g :: rest) : readFlaw 1 n s = Reply.done (flawWords g) := by
  simp only [readFlaw, h]

theorem readFlaw_after_last {s : State} {n : Nat} {f : FlawRecord} (h : flawsFrom n s.map.flaws = [f]) :
    readFlaw 1 n s = Reply.refused .empty := by
  simp only [readFlaw, h]

theorem readFlaw_notFound {s : State} {n : Nat} (h : flawsFrom n s.map.flaws = []) :
    readFlaw 0 n s = Reply.refused .notFound ∧ readFlaw 1 n s = Reply.refused .notFound := by
  simp only [readFlaw, h, and_self]

theorem readFlaw_first {s : State} {f : FlawRecord} {rest : List FlawRecord} (h : s.map.flaws = f :: rest) (n : Nat) :
    readFlaw 2 n s = Reply.done (flawWords f) := by
  simp only [readFlaw, h]

theorem readFlaw_first_empty {s : State} (h : s.map.flaws = []) (n : Nat) : readFlaw 2 n s = Reply.refused .empty := by
  simp only [readFlaw, h]

theorem word_flag (x : Bool) : word (if x then (1 : Nat) else 0) = flagWord x := by cases x <;> rfl

theorem word_add (m n : Nat) : word (m + n) = word m + word n := BitVec.ofNat_add m n

theorem word_mul (m n : Nat) : word (m * n) = word m * word n := BitVec.ofNat_mul m n

theorem flawWords_eq (f : FlawRecord) :
    flawWords f =
      let flag := fun x : Bool => if x then (1 : Nat) else 0
      [word f.number] ++ words32 f.firstRow ++ words32 f.lastRow ++
        [word f.xMin, word f.xMax, word f.kind.code, word f.cls.code, word f.contrast, word f.size, word f.points,
          word f.area, word f.generation, word (flag f.seenT + 2 * flag f.seenR),
          word (flag f.forced + 2 * flag f.late + 4 * flag f.clipped + 8 * flag f.unsettled)] := by
  simp only [word_add, word_mul, word_flag]
  rfl

/-! ## PLATE (R168) -/

theorem plateWords_eq (e : PlateEntry) :
    plateWords e =
      let flag := fun x : Bool => if x then (1 : Nat) else 0
      [word e.id, word e.row, word (e.order.getD 0), word e.column, word e.kind.code] ++ words32 e.start ++
        words32 e.stop ++
        [word e.width, word e.grade.code, word e.dest,
          word (flag e.unverified + 2 * flag e.forced + 4 * flag e.surplus + 8 * flag e.short + 16 * flag e.sample),
          word e.faint, word e.minor, word e.major, word e.critical, word e.sum, word e.density, word e.shift,
          word e.flaws.length, word e.more] ++
        e.flaws.flatMap fun x =>
          [word x.number, word x.kind.code, word x.cls.code, word x.points, word x.along, word x.cross] := by
  simp only [word_add, word_mul, word_flag]
  rfl

theorem exec_plate {s : State} (h : Working s) {arg : Byte} {b : Body} (hwords : 1 ≤ b.data.length) {r : Reply}
    (hr : readPlate arg.toNat (valueAt b.data 0) s = r) :
    exec (.plate .supervisor arg b) s = .next (transferred .supervisor b 0x3D r s) :=
  command_answer h (passes_supervisor rfl hwords) (congrArg (Prod.mk _) hr)

theorem readPlate_range {n : Nat} (h : 1 < n) (id : Nat) (s : State) : readPlate n id s = Reply.refused .range := by
  unfold readPlate
  split
  case h_3 => rfl
  all_goals omega

theorem readPlate_of_first {s : State} {n : Nat} {before after : List PlateEntry} {e : PlateEntry}
    (hlog : s.grader.log = before ++ e :: after) (he : e.id = n) (hbefore : ∀ x ∈ before, x.id ≠ n) :
    readPlate 0 n s = Reply.done (plateWords e) := by
  have hfind : s.grader.log.find? (fun x => x.id == n) = some e := by
    rw [hlog, List.find?_append, List.find?_eq_none.mpr (by simpa using hbefore)]
    simp [he]
  simp only [readPlate, hfind]

theorem readPlate_of_none {s : State} {n : Nat} (h : ∀ e ∈ s.grader.log, e.id ≠ n) :
    readPlate 0 n s =
      Reply.refused (if n = 0 ∨ (s.grader.wrapped = false ∧ s.grader.nextPlate ≤ n) then .notFound else .gone) := by
  have hfind : s.grader.log.find? (fun x => x.id == n) = none := List.find?_eq_none.mpr (by simpa using h)
  simp only [readPlate, hfind]
  by_cases hunknown : n = 0 ∨ (s.grader.wrapped = false ∧ s.grader.nextPlate ≤ n)
  · have hgiven : s.grader.given n = false := by
      rcases hunknown with rfl | ⟨hwrapped, hbeyond⟩
      · rfl
      · simp [Grader.given, hwrapped, hbeyond]
    rw [if_pos hunknown, hgiven]
    rfl
  · have hgiven : s.grader.given n = true := by
      simp only [Grader.given, Bool.and_eq_true, bne_iff_ne, Bool.or_eq_true, decide_eq_true_eq]
      simp only [not_or, not_and, Nat.not_le] at hunknown
      obtain ⟨hpositive, hbelow⟩ := hunknown
      refine ⟨hpositive, ?_⟩
      cases hwrapped : s.grader.wrapped with
      | true => exact .inl rfl
      | false => exact .inr (hbelow hwrapped)
    rw [if_neg hunknown, hgiven]
    rfl

theorem readPlate_last {s : State} {e : PlateEntry} (h : s.grader.log.getLast? = some e) (id : Nat) :
    readPlate 1 id s = Reply.done (plateWords e) := by
  simp only [readPlate, h]

theorem readPlate_last_empty {s : State} (h : s.grader.log = []) (id : Nat) :
    readPlate 1 id s = Reply.refused .empty := by
  simp only [readPlate, h, List.getLast?_nil]

/-! ## WINDOW (R93) -/

theorem spanWords_eq (x : Span) : spanWords x = words32 x.first ++ words32 x.last ++ [word x.causes.toNat] := by
  unfold spanWords word
  rw [BitVec.ofNat_toNat]

theorem exec_window {s : State} (h : Working s) (arg : Byte) (b : Body) :
    exec (.window .supervisor arg b) s = .next (transferred .supervisor b 0x40 (Reply.done (windowWords s)) s) :=
  command_answer h (passes_supervisor rfl (Nat.zero_le _)) rfl

/-- Settles O52. -/
theorem mapAndLogReads : Obligations.MapAndLogReads := by
  intro s arg b h n flag target windowed flawed plated flawReturned flawRefused plateReturned plateRefused
  have hwindowed : windowWords s = windowed := by
    have hspans : spanWords = fun x => words32 x.first ++ words32 x.last ++ [word x.causes.toNat] := funext spanWords_eq
    unfold windowWords
    rw [hspans, ← word_flag]
    rfl
  have hflawed : flawWords = flawed := funext flawWords_eq
  have hplated : plateWords = plated := funext plateWords_eq
  refine ⟨by rw [exec_window h, hwindowed], fun hwords =>
    ⟨fun before after f hflaws hf hbefore => ?_, fun hnone => ?_, fun f rest hflaws => ?_, fun hnone => ?_, fun harg => ?_,
      fun before after e hlog he hbefore => ?_, fun e hlast => ?_, fun hnone => ?_, fun hnone => ?_, fun harg => ?_⟩⟩
  · have hfrom : flawsFrom n s.map.flaws = f :: after := by rw [hflaws, flawsFrom_of_first hf hbefore]
    refine ⟨exec_flaw h hwords (hflawed ▸ readFlaw_at hfrom), fun g rest hafter => ?_, fun hafter => ?_⟩
    · rw [hafter] at hfrom
      exact exec_flaw h hwords (hflawed ▸ readFlaw_after hfrom)
    · rw [hafter] at hfrom
      exact exec_flaw h hwords (readFlaw_after_last hfrom)
  · obtain ⟨hat, hafter⟩ := readFlaw_notFound (flawsFrom_of_none hnone)
    exact ⟨exec_flaw h hwords hat, exec_flaw h hwords hafter⟩
  · exact exec_flaw h hwords (hflawed ▸ readFlaw_first hflaws n)
  · exact exec_flaw h hwords (readFlaw_first_empty hnone n)
  · exact exec_flaw h hwords (readFlaw_range harg _ _)
  · exact exec_plate h hwords (hplated ▸ readPlate_of_first hlog he hbefore)
  · exact exec_plate h hwords (hplated ▸ readPlate_last hlast n)
  · exact exec_plate h hwords (readPlate_last_empty hnone n)
  · exact exec_plate h hwords (readPlate_of_none hnone)
  · exact exec_plate h hwords (readPlate_range harg _ _)

end Sys2Proof.Proofs.Reads
end

section
/-!
MODE without a mode entry, TIME, and the shift accounts' commands (chapters 10 and 11).
-/

namespace Sys2Proof.Proofs.AccountsCommands

open Sys2Proof Sys2Proof.Machine Sys2Proof.Proofs.Accepted

/-! ## MODE (R180, R181) -/

theorem modeAct_range {arg : Byte} (h : 3 < arg.toNat) (s : State) : modeAct arg s = (s, Reply.refused .range) := by
  unfold modeAct
  split
  case h_5 => rfl
  all_goals omega

theorem requestMode_of_ribbon {s : State} (h : s.mode ≠ .setup) (m : Mode) :
    requestMode m s = (requestSwitch m s, Reply.done (modeWords (requestSwitch m s))) := if_neg h

theorem requestSetup_in_setup {s : State} (h : s.mode = .setup) : requestSetup s = (s, Reply.done (modeWords s)) := if_pos h

/-- MODE is accepted in every mode. -/
theorem mode_accepted (b : Body) (m : Mode) : (supervisorEntry 0x30 anyMode 0).refusal .supervisor b m = none :=
  passes_supervisor rfl (Nat.zero_le _)

/-- A request for RUN or CULL in RUN or CULL writes the switch alone. -/
theorem modeCommand_switch {s : State} (h : Working s) (hmode : s.mode ≠ .setup) (b : Body) {arg : Byte} {m : Mode}
    (harg : ∀ u, modeAct arg u = requestMode m u) :
    modeCommand arg .supervisor b s =
      .next (transferred .supervisor b 0x30 (Reply.done (modeWords (requestSwitch m s))) (requestSwitch m s)) := by
  have hact : modeAct arg (shiftOut .supervisor (b.data.length + 1) s) =
      (shiftOut .supervisor (b.data.length + 1) (requestSwitch m s), Reply.done (modeWords (requestSwitch m s))) :=
    (harg _).trans (requestMode_of_ribbon (s := shiftOut .supervisor (b.data.length + 1) s) hmode m)
  exact command_changes h (mode_accepted b s.mode) hact rfl rfl rfl rfl

/-- Settles O44. -/
theorem modeRequestsSetTheSwitch : Obligations.ModeRequestsSetTheSwitch := by
  intro s b h words
  refine ⟨command_answer h (mode_accepted b s.mode) rfl,
    fun arg harg => command_answer h (mode_accepted b s.mode) (modeAct_range harg _),
    fun hsetup => command_answer h (mode_accepted b s.mode) (requestSetup_in_setup hsetup), fun hmode => ?_⟩
  exact ⟨modeCommand_switch h hmode b fun _ => rfl, modeCommand_switch h hmode b fun _ => rfl⟩

/-! ## TIME (R14) -/

theorem time_accepted {b : Body} (hwords : 2 ≤ b.data.length) (m : Mode) :
    (supervisorEntry 0x32 anyMode 2).refusal .supervisor b m = none := passes_supervisor rfl hwords

theorem setTime_of_valid {seconds : Nat} (h : seconds ≤ 86399) (s : State) :
    setTime seconds s = ({ s with travel := { s.travel with seconds := seconds, ms := 0 } }, Reply.done []) :=
  if_neg (by show ¬86400 ≤ seconds; omega)

theorem setTime_of_invalid {seconds : Nat} (h : 86399 < seconds) (s : State) :
    setTime seconds s = (s, Reply.refused .range) := if_pos h

/-! ## SHIFTS (R174) -/

theorem toList_eq_ofFn {α : Type} {n : Nat} (v : Vector α n) : v.toList = List.ofFn fun i : Fin n => v[i] :=
  List.ext_getElem (by simp) (by simp)

theorem shiftTableWords_eq (t : Vector ShiftStart 4) :
    shiftTableWords t =
      [flagWord t[0].enabled] ++ words32 t[0].start ++ [flagWord t[1].enabled] ++ words32 t[1].start ++
        [flagWord t[2].enabled] ++ words32 t[2].start ++ [flagWord t[3].enabled] ++ words32 t[3].start := by
  unfold shiftTableWords
  rw [toList_eq_ofFn]
  simp [List.ofFn_succ]

theorem rawShift_inRange_iff (ws : List Word) (i : Nat) :
    (rawShift ws i).inRange = true ↔ valueAt ws (3 * i) ≤ 1 ∧ value32At ws (3 * i + 1) ≤ 86399 := by
  unfold RawShift.inRange
  rw [Bool.and_eq_true, decide_eq_true_iff, decide_eq_true_iff]
  exact and_congr_right fun _ => Nat.lt_succ_iff

theorem shiftsInRange_iff (ws : List Word) :
    shiftsInRange ws = true ↔ ∀ i : Fin 4, valueAt ws (3 * i) ≤ 1 ∧ value32At ws (3 * i + 1) ≤ 86399 := by
  simp [shiftsInRange, rawShift_inRange_iff, Fin.forall_fin_succ]

/-- Two enabled entries of a SHIFTS write have different start times. -/
theorem shiftsCollide_eq_false_iff (ws : List Word) :
    shiftsCollide (writtenShifts ws).toList = false ↔
      ∀ i j : Fin 4, i < j → valueAt ws (3 * i) = 1 → valueAt ws (3 * j) = 1 →
        value32At ws (3 * i + 1) ≠ value32At ws (3 * j + 1) := by
  simp [writtenShifts, shiftsCollide, rawShift, RawShift.entry, Fin.forall_fin_succ]

theorem shifts_accepted {b : Body} (hwords : 12 ≤ b.data.length) (m : Mode) :
    (supervisorEntry 0x33 anyMode 12).refusal .supervisor b m = none := passes_supervisor rfl hwords

theorem writeShifts_range {ws : List Word} (h : shiftsInRange ws = false) (s : State) :
    writeShifts ws s = (s, Reply.refused .range) := if_pos (by rw [h]; rfl)

theorem writeShifts_duplicate {ws : List Word} (hrange : shiftsInRange ws = true)
    (hcollide : shiftsCollide (writtenShifts ws).toList = true) (s : State) :
    writeShifts ws s = (s, Reply.refused .duplicate) := by
  unfold writeShifts
  rw [if_neg (by simp [hrange]), if_pos hcollide]

theorem writeShifts_table {ws : List Word} (hrange : shiftsInRange ws = true)
    (hcollide : shiftsCollide (writtenShifts ws).toList = false) (s : State) :
    writeShifts ws s =
      ({ s with accounts := { s.accounts with table := writtenShifts ws } },
        Reply.done (shiftTableWords (writtenShifts ws))) := by
  unfold writeShifts
  rw [if_neg (by simp [hrange]), if_neg (by simp [hcollide])]

theorem writtenShifts_get (ws : List Word) (i : Fin 4) :
    (writtenShifts ws)[i] = ⟨valueAt ws (3 * i) == 1, value32At ws (3 * i + 1)⟩ := by
  match i with
  | 0 | 1 | 2 | 3 => rfl

theorem readShifts_range {arg : Byte} (h : 1 < arg.toNat) (s : State) : readShifts arg s = Reply.refused .range :=
  if_neg fun heq => by rw [heq] at h; exact absurd h (by decide)

/-! ## REPORT (R178) -/

theorem reportWords_eq (r : Report) :
    r.words =
      let c := r.counts
      [word r.shift] ++ words32 r.closeTime ++ [word r.cause] ++ words32 c.runSeconds ++ words32 c.stoppedSeconds ++
        [word c.lineStops, word c.byGrade[0], word c.byGrade[1], word c.byGrade[2], word c.byGrade[3], word c.byDest[0],
          word c.byDest[1], word c.byDest[2], word c.byDest[3], word c.byDest[4], word c.byDest[5]] ++
        words32 c.cullLength ++ words32 c.productArea ++ words32 c.totalArea ++
        [word r.yield, word c.byKind[0], word c.byKind[1], word c.byKind[2], word c.byKind[3], word c.byKind[4],
          word c.byKind[5], word c.byKind[6], word c.byKind[7], word c.byClass[0], word c.byClass[1], word c.byClass[2],
          word c.byClass[3], word c.border, word c.faintDropped, word c.mapFull, word c.forcedCloses, word c.late,
          word c.lateDropped, word c.intakeDrops, word c.blindRows, word c.missed, word c.expired, word c.routeLost] := by
  unfold Report.words reportTimesAndPlates reportFlawsAndLosses
  simp only [toList_eq_ofFn]
  simp [List.ofFn_succ]

theorem readReport_some {s : State} {k : Nat} {r : Report} (hk : k ≤ 3) (h : s.accounts.reports[k]? = some r) :
    readReport k s = Reply.done r.words := by
  unfold readReport
  rw [if_neg (Nat.not_lt.mpr hk), h]

theorem readReport_none {s : State} {k : Nat} (hk : k ≤ 3) (h : s.accounts.reports.length ≤ k) :
    readReport k s = Reply.refused .notFound := by
  unfold readReport
  rw [if_neg (Nat.not_lt.mpr hk), List.getElem?_eq_none h]

theorem readReport_range {k : Nat} (h : 3 < k) (s : State) : readReport k s = Reply.refused .range := if_pos h

theorem exec_report {s : State} (h : Working s) {arg : Byte} (b : Body) {r : Reply}
    (hr : readReport arg.toNat s = r) :
    exec (.report .supervisor arg b) s = .next (transferred .supervisor b 0x3F r s) :=
  command_answer h (passes_supervisor rfl (Nat.zero_le _)) (congrArg (Prod.mk _) hr)

/-- SHIFT_CLOSE closes the shift, which no level condition sees. -/
theorem exec_shiftClose {s : State} (h : Working s) (arg : Byte) (b : Body) :
    exec (.shiftClose .supervisor arg b) s =
      .next (transferred .supervisor b 0x3E (Reply.done (shiftCloseWords s)) (closeShift s.travel.seconds 4 s)) :=
  command_changes h (passes_supervisor rfl (Nat.zero_le _)) rfl rfl rfl rfl rfl

/-- Settles O47. -/
theorem timeAndShiftCommands : Obligations.TimeAndShiftCommands := by
  intro s arg b h seconds flag tableWords sound distinct reportWords
  have hread : (supervisorEntry 0x33 anyMode 0).refusal .supervisor b s.mode = none :=
    passes_supervisor rfl (Nat.zero_le _)
  have hreport : Report.words = reportWords := funext reportWords_eq
  refine ⟨fun hwords hvalid => ?_, fun hwords hinvalid => ?_, fun hwords hsound hdistinct => ?_, fun hwords hsound => ?_,
    fun hwords hsound hsame => ?_, ?_, fun harg => ?_, exec_shiftClose h arg b, fun r hk hr => ?_, fun hk hnone => ?_,
    fun hk => ?_⟩
  · exact command_changes h (time_accepted hwords s.mode) (setTime_of_valid hvalid _) rfl rfl rfl rfl
  · exact command_answer h (time_accepted hwords s.mode) (setTime_of_invalid hinvalid _)
  · refine ⟨writtenShifts b.data, writtenShifts_get b.data, ?_⟩
    have hwrite := writeShifts_table ((shiftsInRange_iff b.data).mpr hsound)
      ((shiftsCollide_eq_false_iff b.data).mpr hdistinct)
    rw [shiftTableWords_eq] at hwrite
    exact command_changes h (shifts_accepted hwords s.mode) (hwrite _) rfl rfl rfl rfl
  · have hrange : shiftsInRange b.data = false :=
      eq_false_of_ne_true fun hrange => hsound ((shiftsInRange_iff b.data).mp hrange)
    exact command_answer h (shifts_accepted hwords s.mode) (writeShifts_range hrange _)
  · have hcollide : shiftsCollide (writtenShifts b.data).toList = true :=
      eq_true_of_ne_false fun hfree => hsame ((shiftsCollide_eq_false_iff b.data).mp hfree)
    exact command_answer h (shifts_accepted hwords s.mode)
      (writeShifts_duplicate ((shiftsInRange_iff b.data).mpr hsound) hcollide _)
  · have hwords := shiftTableWords_eq s.accounts.table
    exact command_answer h hread (congrArg (fun ws => (_, Reply.done ws)) hwords)
  · exact command_answer h hread (congrArg (Prod.mk _) (readShifts_range harg _))
  · exact exec_report h b (hreport ▸ readReport_some hk hr)
  · exact exec_report h b (readReport_none hk hnone)
  · exact exec_report h b (readReport_range hk s)

end Sys2Proof.Proofs.AccountsCommands
end

section
/-!
The pattern table (section 6.2): PAT. The order list's ORD_ADD (R98).
-/

namespace Sys2Proof.Proofs.Patterns

open Sys2Proof Sys2Proof.Machine Sys2Proof.Proofs.Accepted

/-! ## The words of a PAT write -/

theorem columnsOf_spec (k : Nat) :
    ∀ ws : List Word, 2 * k ≤ ws.length →
      (columnsOf k ws).length = k ∧
        ∀ i, i < k → (columnsOf k ws)[i]? = some ⟨valueAt ws (2 * i), valueAt ws (2 * i + 1)⟩ := by
  induction k with
  | zero => intro ws _; exact ⟨rfl, fun i hi => absurd hi (Nat.not_lt_zero i)⟩
  | succ k ih =>
    intro ws hwords
    match ws with
    | xl :: xr :: rest =>
      obtain ⟨hlength, hget⟩ := ih rest (by simp at hwords; omega)
      refine ⟨congrArg (· + 1) hlength, fun i hi => ?_⟩
      cases i with
      | zero => rfl
      | succ i => exact hget i (Nat.lt_of_succ_lt_succ hi)
    | [] => simp at hwords
    | [_] => simp at hwords; omega

theorem patternWords_eq (columns : List Across) :
    patternWords columns = word columns.length :: columns.flatMap fun c => [word c.xl, word c.xr] := rfl

/-! ## The argument of PAT (R103) -/

theorem patArgBad_of_write : ∀ arg : Byte, arg.toNat < 128 → 8 ≤ arg.toNat → patArgBad arg = true := by decide

theorem patIndex_of_write : ∀ (arg : Byte) (i : Fin 8), arg.toNat = i → patArgBad arg = false ∧ patIndex arg = i := by
  decide

theorem patIndex_of_read : ∀ (arg : Byte) (i : Fin 8), arg.toNat = 128 + i →
    patArgBad arg = false ∧ patIndex arg = i := by decide

theorem patArgBad_of_read : ∀ arg : Byte, 136 ≤ arg.toNat → patArgBad arg = true := by decide

/-! ## The conditions of R102 -/

theorem columnFits_iff (zone c : Across) :
    columnFits zone c = true ↔ zone.xl ≤ c.xl ∧ c.xr ≤ zone.xr ∧ c.xl + 100 ≤ c.xr := by
  simp [columnFits, and_assoc]

/-- Columns that fit stand in order throughout when each stands left of the next. -/
theorem columnsOrdered_iff {zone : Across} : ∀ columns : List Across, (∀ c ∈ columns, columnFits zone c = true) →
    (columnsOrdered columns = true ↔ columns.Pairwise fun c d => c.xr ≤ d.xl)
  | [], _ => by simp [columnsOrdered]
  | [_], _ => by simp [columnsOrdered]
  | c :: d :: rest, hfit => by
    have htail := columnsOrdered_iff (d :: rest) fun x hx => hfit x (List.mem_cons_of_mem c hx)
    obtain ⟨-, -, hwide⟩ := (columnFits_iff zone d).mp (hfit d (by simp))
    rw [columnsOrdered, Bool.and_eq_true, decide_eq_true_iff, htail, List.pairwise_cons (a := c)]
    refine ⟨fun ⟨hnext, hrest⟩ => ⟨fun x hx => ?_, hrest⟩, fun ⟨hall, hrest⟩ => ⟨hall d (by simp), hrest⟩⟩
    rcases List.mem_cons.mp hx with rfl | hx
    · exact hnext
    · have hbeyond := (List.pairwise_cons.mp hrest).1 x hx
      omega

theorem patternFits_iff (zone : Across) (columns : List Across) :
    patternFits zone columns = true ↔
      (∀ c ∈ columns, zone.xl ≤ c.xl ∧ c.xr ≤ zone.xr ∧ c.xl + 100 ≤ c.xr) ∧
        columns.Pairwise fun c d => c.xr ≤ d.xl := by
  simp only [patternFits, Bool.and_eq_true, List.all_eq_true, ← columnFits_iff]
  exact and_congr_right fun hfit => columnsOrdered_iff columns hfit

theorem patternInUse_iff (i : Fin 8) (s : State) :
    patternInUse i s = true ↔ ∃ r ∈ s.planner.rows, r.pattern = some i ∧ r.left = false := by
  simp [patternInUse, and_comm]

/-! ## PAT (R103) -/

/-- A row not yet closed carries the pattern, outside SETUP. -/
def InUse (i : Fin 8) (s : State) : Prop := s.mode ≠ .setup ∧ ∃ r ∈ s.planner.rows, r.pattern = some i ∧ r.left = false

/-- An order names the pattern. -/
def Named (i : Fin 8) (s : State) : Prop := ∃ o ∈ s.production.orders, o.pattern = i

theorem inUse_iff (i : Fin 8) (s : State) : (s.mode != .setup && patternInUse i s) = true ↔ InUse i s := by
  rw [Bool.and_eq_true, bne_iff_ne, patternInUse_iff]
  rfl

theorem named_iff (i : Fin 8) (s : State) : s.production.orders.any (fun o => o.pattern == i) = true ↔ Named i s := by
  simp [Named]

section
variable {arg : Byte} {i : Fin 8} {k : Nat} {columns : List Across} {s : State}

theorem writePattern_argument (h : patArgBad arg = true ∨ 4 < k) :
    writePattern arg k columns s = (s, Reply.refused .range) := if_pos (by simpa using h)

theorem writePattern_inUse (hbits : patArgBad arg = false) (hi : patIndex arg = i) (hk : k ≤ 4) (hused : InUse i s) :
    writePattern arg k columns s = (s, Reply.refused .busy) := by
  simp only [writePattern]
  rw [hi, if_neg (by simp [hbits, hk]), if_pos ((inUse_iff i s).mpr hused)]

theorem writePattern_named (hbits : patArgBad arg = false) (hi : patIndex arg = i) (hk : k ≤ 4) (hfree : ¬InUse i s)
    (hnone : k = 0) (hnamed : Named i s) : writePattern arg k columns s = (s, Reply.refused .busy) := by
  simp only [writePattern]
  rw [hi, if_neg (by simp [hbits, hk]), if_neg (fun hused => hfree ((inUse_iff i s).mp hused)),
    if_pos ⟨hnone, (named_iff i s).mpr hnamed⟩]

theorem writePattern_of_free (hbits : patArgBad arg = false) (hi : patIndex arg = i) (hk : k ≤ 4) (hfree : ¬InUse i s)
    (hunnamed : k = 0 → ¬Named i s) :
    writePattern arg k columns s =
      if !patternFits s.conf.netZone columns then (s, Reply.refused .range)
      else (setPattern i columns s, Reply.done (patternWords columns)) := by
  simp only [writePattern]
  rw [hi, if_neg (by simp [hbits, hk]), if_neg (fun hused => hfree ((inUse_iff i s).mp hused)),
    if_neg (fun ⟨hnone, hnamed⟩ => hunnamed hnone ((named_iff i s).mp hnamed))]

end

theorem patWrite_accepted {b : Body} (hwords : 1 + 2 * valueAt b.data 0 ≤ b.data.length) (m : Mode) :
    (supervisorEntry 0x34 anyMode (patFixed b.data)).refusal .supervisor b m = none := passes_supervisor rfl hwords

theorem exec_patRead {s : State} (h : Working s) {arg : Byte} (b : Body) {r : Reply} (hr : readPattern arg s = r) :
    exec (.patRead .supervisor arg b) s = .next (transferred .supervisor b 0x34 r s) :=
  command_answer h (passes_supervisor rfl (Nat.zero_le _)) (congrArg (Prod.mk _) hr)

theorem readPattern_of_index {arg : Byte} {i : Fin 8} (harg : arg.toNat = 128 + i) (s : State) :
    readPattern arg s = Reply.done (patternWords s.production.patterns[i]) := by
  obtain ⟨hbits, hi⟩ := patIndex_of_read arg i harg
  subst hi
  exact if_neg (by simp [hbits])

/-- PAT, as O48 states it. -/
theorem pat_spec {s : State} (arg : Byte) (i : Fin 8) (b : Body) (h : Working s) :
    let k := valueAt b.data 0
    let columns := columnsOf k (b.data.drop 1)
    let fits := (∀ c ∈ columns, s.conf.netZone.xl ≤ c.xl ∧ c.xr ≤ s.conf.netZone.xr ∧ c.xl + 100 ≤ c.xr) ∧
      columns.Pairwise fun c d => c.xr ≤ d.xl
    let write := exec (.patWrite .supervisor arg b) s
    (1 + 2 * k ≤ b.data.length →
        (arg.toNat < 128 → 8 ≤ arg.toNat ∨ 4 < k → write = .next (refusedFor .supervisor b 0x34 .range s)) ∧
          (arg.toNat = i.val → k ≤ 4 →
            (InUse i s → write = .next (refusedFor .supervisor b 0x34 .busy s)) ∧
              (¬InUse i s → k = 0 → Named i s → write = .next (refusedFor .supervisor b 0x34 .busy s)) ∧
              (¬InUse i s → (k = 0 → ¬Named i s) → ¬fits → write = .next (refusedFor .supervisor b 0x34 .range s)) ∧
              (¬InUse i s → (k = 0 → ¬Named i s) → fits →
                write =
                  .next
                    (transferred .supervisor b 0x34 (Reply.done (patternWords columns))
                      { s with
                        production := { s.production with patterns := s.production.patterns.set i columns } })))) ∧
      (arg.toNat = 128 + i.val →
        exec (.patRead .supervisor arg b) s =
          .next (transferred .supervisor b 0x34 (Reply.done (patternWords s.production.patterns[i])) s)) ∧
      (136 ≤ arg.toNat →
        exec (.patRead .supervisor arg b) s = .next (refusedFor .supervisor b 0x34 .range s)) := by
  intro k columns fits write
  refine ⟨fun hwords => ⟨fun hlow hbad => ?_, fun harg hk => ?_⟩, fun harg => exec_patRead h b (readPattern_of_index harg s),
    fun harg => exec_patRead h b (if_pos (patArgBad_of_read arg harg))⟩
  · exact command_answer h (patWrite_accepted hwords s.mode) (writePattern_argument (hbad.imp_left (patArgBad_of_write arg hlow)))
  · obtain ⟨hbits, hi⟩ := patIndex_of_write arg i harg
    have haccepted := patWrite_accepted hwords s.mode
    have hfits := patternFits_iff s.conf.netZone columns
    have hwrite := writePattern_of_free (k := k) (columns := columns) (s := shiftOut .supervisor (b.data.length + 1) s)
      hbits hi hk
    refine ⟨fun hused => ?_, fun hfree hnone hnamed => ?_, fun hfree hunnamed hunfit => ?_, fun hfree hunnamed hfit => ?_⟩
    · exact command_answer h haccepted (writePattern_inUse hbits hi hk hused)
    · exact command_answer h haccepted (writePattern_named hbits hi hk hfree hnone hnamed)
    · refine command_answer h haccepted ((hwrite hfree hunnamed).trans (if_pos ?_))
      simpa using fun hfit => hunfit (hfits.mp hfit)
    · refine command_changes h haccepted ((hwrite hfree hunnamed).trans (if_neg ?_)) rfl rfl rfl rfl
      simpa using hfits.mpr hfit

/-! ## ORD_ADD (R98) -/

theorem definedPattern_eq_some_iff (patterns : Vector (List Across) 8) (n : Nat) (i : Fin 8) :
    definedPattern patterns n = some i ↔ n = i.val ∧ patterns[i] ≠ [] := by
  unfold definedPattern
  by_cases hn : n < 8
  · rw [dif_pos hn]
    by_cases hempty : patterns[n] = []
    · rw [if_pos (by simpa using hempty)]
      refine ⟨fun hnone => (nomatch hnone), fun ⟨heq, hdefined⟩ => ?_⟩
      subst heq
      exact absurd hempty hdefined
    · rw [if_neg (by simpa using hempty), Option.some.injEq, Fin.ext_iff]
      refine ⟨fun heq => ⟨heq, ?_⟩, fun ⟨heq, _⟩ => heq⟩
      subst heq
      exact hempty
  · rw [dif_neg hn]
    exact ⟨fun hnone => (nomatch hnone), fun ⟨heq, _⟩ => absurd (heq ▸ i.isLt) hn⟩

theorem requiredGrade_eq_some_iff (n : Nat) (g : Grade) : requiredGrade n = some g ↔ n = g.code ∧ g ≠ .x := by
  unfold requiredGrade
  split
  case h_4 h1 h2 h3 =>
    refine ⟨fun hnone => (nomatch hnone), fun ⟨hcode, hgrade⟩ => ?_⟩
    cases g
    · exact absurd hcode h1
    · exact absurd hcode h2
    · exact absurd hcode h3
    · exact absurd rfl hgrade
  all_goals cases g <;> simp [Grade.code]

/-- The seven words give an order for pattern `i` and required grade `g`. -/
def SoundOrder (ws : List Word) (s : State) (i : Fin 8) (g : Grade) : Prop :=
  1 ≤ valueAt ws 0 ∧ s.conf.cmin ≤ valueAt ws 1 ∧ valueAt ws 1 ≤ 7000 ∧
    (valueAt ws 2 = 0 ∨ (s.conf.cmin ≤ valueAt ws 2 ∧ valueAt ws 2 < valueAt ws 1)) ∧ valueAt ws 3 = i.val ∧
    s.production.patterns[i] ≠ [] ∧ valueAt ws 4 = g.code ∧ g ≠ .x ∧ 1 ≤ valueAt ws 5 ∧ valueAt ws 6 ≤ 15

/-- The order the seven words give. -/
def writtenOrder (ws : List Word) (i : Fin 8) (g : Grade) : Order where
  id := valueAt ws 0
  lp := valueAt ws 1
  short := if valueAt ws 2 = 0 then none else some (valueAt ws 2)
  pattern := i
  grade := g
  wanted := valueAt ws 5
  stacker := valueAt ws 6
  delivered := 0
  inFlight := 0
  state := .opened

theorem shortInRange_iff (cmin lp n : Nat) : shortInRange cmin lp n = true ↔ n = 0 ∨ (cmin ≤ n ∧ n < lp) := by
  simp [shortInRange]

theorem orderOf_of_fields {ws : List Word} {s : State} {i : Fin 8} {g : Grade}
    (hpattern : definedPattern s.production.patterns (valueAt ws 3) = some i)
    (hgrade : requiredGrade (valueAt ws 4) = some g) :
    (SoundOrder ws s i g → Machine.orderOf ws s = some (writtenOrder ws i g)) ∧
      (¬SoundOrder ws s i g → Machine.orderOf ws s = none) := by
  obtain ⟨hi, hdefined⟩ := (definedPattern_eq_some_iff _ _ _).mp hpattern
  obtain ⟨hcode, hgradeX⟩ := (requiredGrade_eq_some_iff _ _).mp hgrade
  have hchecks : SoundOrder ws s i g ↔
      ¬(valueAt ws 0 = 0 ∨ valueAt ws 1 < s.conf.cmin ∨ 7000 < valueAt ws 1 ∨
        !shortInRange s.conf.cmin (valueAt ws 1) (valueAt ws 2) ∨ valueAt ws 5 = 0 ∨ 15 < valueAt ws 6) := by
    rw [SoundOrder, ← shortInRange_iff]
    constructor
    · rintro ⟨h0, h1, h2, hshort, -, -, -, -, h5, h6⟩
      simp only [hshort, Bool.not_true, Bool.false_eq_true, false_or]
      omega
    · intro hgood
      simp only [not_or, Bool.not_eq_true, Bool.not_eq_false'] at hgood
      obtain ⟨h0, h1, h2, hshort, h5, h6⟩ := hgood
      exact ⟨by omega, by omega, by omega, hshort, hi, hdefined, hcode, hgradeX, by omega, by omega⟩
  unfold Machine.orderOf
  rw [hpattern, hgrade]
  exact ⟨fun hsound => if_neg (hchecks.mp hsound), fun hunsound => if_pos (Decidable.not_not.mp (mt hchecks.mpr hunsound))⟩

theorem orderOf_of_sound {ws : List Word} {s : State} {i : Fin 8} {g : Grade} (h : SoundOrder ws s i g) :
    Machine.orderOf ws s = some (writtenOrder ws i g) := by
  have ⟨_, _, _, _, hi, hpattern, hg, hgrade, _, _⟩ := h
  exact (orderOf_of_fields ((definedPattern_eq_some_iff _ _ _).mpr ⟨hi, hpattern⟩)
    ((requiredGrade_eq_some_iff _ _).mpr ⟨hg, hgrade⟩)).1 h

theorem orderOf_of_unsound {ws : List Word} {s : State} (h : ∀ i g, ¬SoundOrder ws s i g) : Machine.orderOf ws s = none := by
  cases hpattern : definedPattern s.production.patterns (valueAt ws 3) with
  | none => simp only [Machine.orderOf, hpattern]
  | some i =>
    cases hgrade : requiredGrade (valueAt ws 4) with
    | none => simp only [Machine.orderOf, hpattern, hgrade]
    | some g => exact (orderOf_of_fields hpattern hgrade).2 (h i g)

section
variable {arg : Byte} {ws : List Word} {s : State} {o : Order}

theorem addOrder_range (h : 1 < arg.toNat ∨ ∀ i g, ¬SoundOrder ws s i g) :
    addOrder arg ws s = (s, Reply.refused .range) := by
  simp only [addOrder]
  by_cases harg : 1 < arg.toNat
  · rw [if_pos harg]
  · rw [if_neg harg, orderOf_of_unsound (h.resolve_left harg)]

theorem addOrder_duplicate (harg : arg.toNat ≤ 1) (ho : Machine.orderOf ws s = some o)
    (hsame : ∃ x ∈ s.production.orders, x.id = o.id) : addOrder arg ws s = (s, Reply.refused .duplicate) := by
  simp only [addOrder]
  rw [if_neg (Nat.not_lt.mpr harg), ho]
  exact if_pos (by simpa using hsame)

theorem addOrder_of_new (harg : arg.toNat ≤ 1) (ho : Machine.orderOf ws s = some o)
    (hnew : ∀ x ∈ s.production.orders, x.id ≠ o.id) :
    addOrder arg ws s =
      if 16 ≤ s.production.orders.length then (s, Reply.refused .full)
      else if arg = 0 then
        (setOrders (s.production.orders ++ [o]) s, Reply.done [word s.production.orders.length])
      else (setOrders (o :: s.production.orders) s, Reply.done [0]) := by
  simp only [addOrder]
  rw [if_neg (Nat.not_lt.mpr harg), ho]
  exact if_neg (by simpa using hnew)

end

/-- An order more in the list takes no OPEN order with need away: STARVED cannot rise. -/
theorem starved_of_setOrders {orders : List Order} {s : State} (hkept : ∀ o ∈ s.production.orders, o ∈ orders)
    (h : (setOrders orders s).starved = true) : s.starved = true := by
  obtain ⟨hmode, hnone⟩ := (starved_iff _).mp h
  exact (starved_iff s).mpr
    ⟨hmode, (activeOrder_eq_none_iff _).mpr fun o ho => (activeOrder_eq_none_iff _).mp hnone o (hkept o ho)⟩

theorem ordAdd_accepted {b : Body} (hwords : 7 ≤ b.data.length) (m : Mode) :
    (supervisorEntry 0x35 anyMode 7).refusal .supervisor b m = none := passes_supervisor rfl hwords

/-- Settles O48. -/
theorem patternsAndOrdersAreWritten : Obligations.PatternsAndOrdersAreWritten := by
  refine ⟨columnsOf_spec, fun s arg i b h => pat_spec arg i b h, ?_⟩
  intro s arg b h hwords v orders sound add
  have haccepted := ordAdd_accepted hwords s.mode
  refine ⟨fun hrange => ?_, ?_⟩
  · exact command_answer h haccepted
      (addOrder_range (s := shiftOut .supervisor (b.data.length + 1) s) (ws := b.data) hrange)
  · intro i g hsound harg o added
    have ho : Machine.orderOf b.data (shiftOut .supervisor (b.data.length + 1) s) = some o :=
      orderOf_of_sound (s := shiftOut .supervisor (b.data.length + 1) s) hsound
    refine ⟨fun hsame => ?_, fun hnew hfull => ?_, fun hnew hroom => ?_⟩
    · exact command_answer h haccepted (addOrder_duplicate harg ho hsame)
    · exact command_answer h haccepted ((addOrder_of_new harg ho hnew).trans (if_pos hfull))
    · have hadd := (addOrder_of_new harg ho hnew).trans (if_neg (Nat.not_le.mpr hroom))
      refine ⟨fun hlast => ?_, fun hfirst => ?_⟩
      · rw [if_pos hlast] at hadd
        refine command_lowers (t := setOrders (orders ++ [o]) s) h haccepted hadd id id (starved_of_setOrders ?_)
        exact fun x hx => List.mem_append_left [o] hx
      · rw [if_neg (by rw [hfirst]; decide)] at hadd
        refine command_lowers (t := setOrders (o :: orders) s) h haccepted hadd id id (starved_of_setOrders ?_)
        exact fun x hx => List.mem_cons_of_mem o hx

end Sys2Proof.Proofs.Patterns
end

section
/-!
ORD_CLOSE, ORD_DROP and ORD_READ (R99 to R101).
-/

namespace Sys2Proof.Proofs.Orders

open Sys2Proof Sys2Proof.Machine Sys2Proof.Proofs.Accepted

/-! ## The order of an id -/

section
variable {p : Production} {before after : List Order} {o : Order}

theorem order_of_split (horders : p.orders = before ++ o :: after) (hbefore : ∀ x ∈ before, x.id ≠ o.id) :
    p.order o.id = some o := by
  unfold Production.order
  rw [horders, List.find?_append, List.find?_eq_none.mpr (by simpa using hbefore)]
  simp

theorem updateOrder_of_split (horders : p.orders = before ++ o :: after) (hbefore : ∀ x ∈ before, x.id ≠ o.id)
    (f : Order → Order) : p.updateOrder o.id f = { p with orders := before ++ f o :: after } := by
  unfold Production.updateOrder
  rw [horders, updateFirst_append f (by simpa using hbefore) (by simp)]

theorem eraseP_of_split (horders : p.orders = before ++ o :: after) (hbefore : ∀ x ∈ before, x.id ≠ o.id) :
    p.orders.eraseP (fun x => x.id == o.id) = before ++ after := by
  rw [horders, List.eraseP_append_right _ (by simpa using hbefore), List.eraseP_cons_of_pos (by simp)]

theorem findIdx_of_split (horders : p.orders = before ++ o :: after) (hbefore : ∀ x ∈ before, x.id ≠ o.id) :
    p.orders.findIdx? (fun x => x.id == o.id) = some before.length := by
  rw [horders, List.findIdx?_append, List.findIdx?_eq_none_iff.mpr (by simpa using hbefore)]
  simp [List.findIdx?_cons]

theorem order_eq_none {id : Nat} (h : ∀ x ∈ p.orders, x.id ≠ id) : p.order id = none :=
  List.find?_eq_none.mpr (by simpa using h)

end

/-! ## ORD_CLOSE (R99) -/

theorem closeOrder_of_order {id : Nat} {o : Order} {s : State} (h : s.production.order id = some o) :
    closeOrder id s =
      ({ s with production := s.production.updateOrder id Order.close },
        Reply.done [word (o.delivered + o.inFlight), word o.delivered]) := by
  unfold closeOrder
  rw [h]
  rfl

theorem closeOrder_of_none {id : Nat} {s : State} (h : s.production.order id = none) :
    closeOrder id s = (s, Reply.refused .notFound) := by
  unfold closeOrder
  rw [h]

/-- Closing an order can let STARVED rise. -/
theorem exec_ordClose {s : State} (h : Working s) (arg : Byte) {b : Body} (hwords : 1 ≤ b.data.length) {o : Order}
    (ho : s.production.order (valueAt b.data 0) = some o) :
    let closed := { s with production := s.production.updateOrder (valueAt b.data 0) Order.close }
    exec (.ordClose .supervisor arg b) s =
      .next
        (transferred .supervisor b 0x36 (Reply.done [word (o.delivered + o.inFlight), word o.delivered])
          (if s.starved = false ∧ closed.starved = true then raise .starved closed else closed)) :=
  command_starves h (passes_supervisor rfl hwords)
    (closeOrder_of_order (s := shiftOut .supervisor (b.data.length + 1) s) ho) id id

/-! ## ORD_DROP (R100) -/

theorem dropOrder_of_busy {id : Nat} {o : Order} {s : State} (h : s.production.order id = some o)
    (hbusy : o.state = .opened ∨ 0 < o.inFlight) : dropOrder id s = (s, Reply.refused .busy) := by
  unfold dropOrder
  rw [h]
  exact if_pos hbusy

theorem dropOrder_of_idle {id : Nat} {o : Order} {s : State} (h : s.production.order id = some o)
    (hidle : ¬(o.state = .opened ∨ 0 < o.inFlight)) : dropOrder id s = (removeOrder id s, Reply.done []) := by
  unfold dropOrder
  rw [h]
  exact if_neg hidle

theorem dropOrder_of_none {id : Nat} {s : State} (h : s.production.order id = none) :
    dropOrder id s = (s, Reply.refused .notFound) := by
  unfold dropOrder
  rw [h]

theorem orderLeft_eq (id : Nat) (p : Planner) :
    p.orderLeft id =
      { p with
        course :=
          match p.course with
          | some (.product c) => some (.product { c with present := c.present && c.order != id })
          | other => other } := by
  unfold Planner.orderLeft
  obtain ⟨state, start, nextRowId, course, rows⟩ := p
  match course with
  | none | some (.sample _ _) | some .cullMode | some .noOrder => rfl
  | some (.product c) =>
    by_cases horder : c.order = id
    · simp [horder]
    · have hother : (c.order != id) = true := bne_iff_ne.mpr horder
      simp only [if_neg horder, hother, Bool.and_true]

/-- The order that leaves is not OPEN: STARVED does not rise. -/
theorem exec_ordDrop {s : State} (h : Working s) (arg : Byte) {b : Body} (hwords : 1 ≤ b.data.length)
    {before after : List Order} {o : Order} (horders : s.production.orders = before ++ o :: after)
    (hbefore : ∀ x ∈ before, x.id ≠ o.id) (hid : valueAt b.data 0 = o.id) (hstate : o.state ≠ .opened)
    (hflight : o.inFlight = 0) :
    exec (.ordDrop .supervisor arg b) s =
      .next (transferred .supervisor b 0x37 (Reply.done []) (removeOrder o.id s)) := by
  have horder : s.production.order (valueAt b.data 0) = some o := hid ▸ order_of_split horders hbefore
  have hact := dropOrder_of_idle (s := shiftOut .supervisor (b.data.length + 1) s) horder (by simp [hstate, hflight])
  rw [hid] at hact
  have hstarved : (removeOrder o.id s).starved = true → s.starved = true := by
    intro hleft
    obtain ⟨hmode, hnone⟩ := (starved_iff _).mp hleft
    have hremoved : (removeOrder o.id s).production.orders = before ++ after := eraseP_of_split horders hbefore
    rw [activeOrder_eq_none_iff, hremoved] at hnone
    refine (starved_iff s).mpr ⟨hmode, (activeOrder_eq_none_iff _).mpr fun x hx => ?_⟩
    rw [horders] at hx
    rcases List.mem_append.mp hx with hx | hx
    · exact hnone x (List.mem_append_left after hx)
    · rcases List.mem_cons.mp hx with rfl | hx
      · exact fun hwants => hstate ((wants_iff x).mp hwants).1
      · exact hnone x (List.mem_append_right before hx)
  exact command_lowers (t := removeOrder o.id s) h (passes_supervisor rfl hwords) (by rw [hid]; exact hact) id id hstarved

/-! ## ORD_READ (R101) -/

theorem exec_ordRead {s : State} (h : Working s) {arg : Byte} {b : Body} (hwords : 1 ≤ b.data.length) {r : Reply}
    (hr : readOrder arg (valueAt b.data 0) s = r) :
    exec (.ordRead .supervisor arg b) s = .next (transferred .supervisor b 0x38 r s) :=
  command_answer h (passes_supervisor rfl hwords) (congrArg (Prod.mk _) hr)

theorem readOrder_at {arg : Byte} {n i : Nat} {s : State} {o : Order} (harg : arg.toNat ≤ 1)
    (hposition : positionOf arg n s.production.orders = some i) (ho : s.production.orders[i]? = some o) :
    readOrder arg n s = Reply.done (orderWords s i o) := by
  unfold readOrder
  rw [if_neg (Nat.not_lt.mpr harg), hposition]
  simp only [ho]

theorem readOrder_none {arg : Byte} {n : Nat} {s : State} (harg : arg.toNat ≤ 1)
    (hposition : positionOf arg n s.production.orders = none) : readOrder arg n s = Reply.refused .notFound := by
  unfold readOrder
  rw [if_neg (Nat.not_lt.mpr harg), hposition]

theorem readOrder_range {arg : Byte} (h : 1 < arg.toNat) (n : Nat) (s : State) :
    readOrder arg n s = Reply.refused .range := if_pos h

theorem positionOf_id (n : Nat) (orders : List Order) : positionOf 0 n orders = orders.findIdx? fun o => o.id == n := rfl

theorem positionOf_position (n : Nat) (orders : List Order) :
    positionOf 1 n orders = if n < orders.length then some n else none := rfl

theorem word_stateCode (x : OrderState) :
    word x.code =
      match x with
      | .opened => 0
      | .filled => 1
      | .closed => 2 := by
  cases x <;> rfl

/-- Settles O49. -/
theorem ordersAreClosedDroppedAndRead : Obligations.OrdersAreClosedDroppedAndRead := by
  refine ⟨fun s arg b before after o h hwords horders hbefore => ?_, fun s arg b h hwords => ⟨fun hbeyond => ?_, fun harg =>
    exec_ordRead h hwords (readOrder_range harg _ s), fun hnone => ?_⟩⟩
  · intro words returned
    have hplace : s.production.orders[before.length]? = some o := by rw [horders]; simp
    have hread : orderWords s before.length o = words := by
      unfold orderWords
      rw [word_stateCode]
      rfl
    refine ⟨fun hid => ?_, fun hid hstate hflight => ?_, fun hid hbusy => ?_, fun hid => ?_, fun hposition => ?_⟩
    · intro closed
      have horder : s.production.order (valueAt b.data 0) = some o := hid ▸ order_of_split horders hbefore
      have hclose := exec_ordClose h arg hwords horder
      rw [hid, updateOrder_of_split horders hbefore] at hclose
      exact hclose
    · have hdrop := exec_ordDrop h arg hwords horders hbefore hid hstate hflight
      rw [removeOrder, eraseP_of_split horders hbefore, orderLeft_eq] at hdrop
      exact hdrop
    · have horder : s.production.order (valueAt b.data 0) = some o := hid ▸ order_of_split horders hbefore
      exact command_answer h (passes_supervisor rfl hwords)
        (dropOrder_of_busy (s := shiftOut .supervisor (b.data.length + 1) s) horder hbusy)
    · refine exec_ordRead h hwords ((readOrder_at (by decide) ?_ hplace).trans (congrArg Reply.done hread))
      rw [positionOf_id, hid, findIdx_of_split horders hbefore]
    · refine exec_ordRead h hwords ((readOrder_at (by decide) ?_ hplace).trans (congrArg Reply.done hread))
      rw [positionOf_position, hposition, if_pos (by rw [horders]; simp)]
  · refine exec_ordRead h hwords (readOrder_none (by decide) ?_)
    rw [positionOf_position, if_neg (Nat.not_lt.mpr hbeyond)]
  · have horder := order_eq_none (p := s.production) hnone
    refine ⟨?_, ?_, ?_⟩
    · exact command_answer h (passes_supervisor rfl hwords)
        (closeOrder_of_none (s := shiftOut .supervisor (b.data.length + 1) s) horder)
    · exact command_answer h (passes_supervisor rfl hwords)
        (dropOrder_of_none (s := shiftOut .supervisor (b.data.length + 1) s) horder)
    · refine exec_ordRead h hwords (readOrder_none (by decide) ?_)
      rw [positionOf_id]
      exact List.findIdx?_eq_none_iff.mpr (by simpa using hnone)

end Sys2Proof.Proofs.Orders
end

section
/-!
The element of a list that a key puts first is the earliest of those with the least key.
-/

namespace Sys2Proof.Proofs.Least

open Sys2Proof Sys2Proof.Machine

variable {α : Type} {key : α → Nat}

theorem leastBy_cons (x y : α) (ys : List α) :
    leastBy key x (y :: ys) = leastBy key (if key y < key x then y else x) ys := rfl

theorem leastBy_of_le {x : α} {xs : List α} (h : ∀ y ∈ xs, key x ≤ key y) : leastBy key x xs = x := by
  induction xs with
  | nil => rfl
  | cons y ys ih =>
    have hy : ¬key y < key x := Nat.not_lt.mpr (h y List.mem_cons_self)
    rw [leastBy_cons, if_neg hy]
    exact ih fun z hz => h z (List.mem_cons_of_mem y hz)

/-- An element smaller than all before it, and no larger than any after it, is the one found. -/
theorem leastBy_of_split {x : α} {xs before after : List α} {e : α} (hsplit : x :: xs = before ++ e :: after)
    (hbefore : ∀ y ∈ before, key e < key y) (hafter : ∀ y ∈ after, key e ≤ key y) : leastBy key x xs = e := by
  cases before with
  | nil =>
    obtain ⟨rfl, rfl⟩ : x = e ∧ xs = after := List.cons_eq_cons.mp hsplit
    exact leastBy_of_le hafter
  | cons z before =>
    obtain ⟨rfl, rfl⟩ : x = z ∧ xs = before ++ e :: after := List.cons_eq_cons.mp hsplit
    have hbest := hbefore _ (leastBy_mem key x before)
    have hstep : leastBy key x (before ++ e :: after) = leastBy key (leastBy key x before) (e :: after) :=
      List.foldl_append
    rw [hstep, leastBy_cons, if_pos hbest, leastBy_of_le hafter]

/-- The element found is smaller than all before it, and no larger than any after it. -/
theorem leastBy_splits (key : α → Nat) (x : α) (xs : List α) :
    ∃ before after, x :: xs = before ++ leastBy key x xs :: after ∧ (∀ y ∈ before, key (leastBy key x xs) < key y) ∧
      ∀ y ∈ after, key (leastBy key x xs) ≤ key y := by
  induction xs generalizing x with
  | nil => exact ⟨[], [], rfl, by simp, by simp⟩
  | cons y ys ih =>
    rw [leastBy_cons]
    by_cases hy : key y < key x
    · rw [if_pos hy]
      obtain ⟨before, after, hsplit, hbefore, hafter⟩ := ih y
      refine ⟨x :: before, after, by rw [hsplit]; rfl, ?_, hafter⟩
      have hleast := leastBy_le key y ys List.mem_cons_self
      simp only [List.mem_cons, forall_eq_or_imp]
      exact ⟨by omega, hbefore⟩
    · rw [if_neg hy]
      obtain ⟨before, after, hsplit, hbefore, hafter⟩ := ih x
      cases before with
      | nil =>
        obtain ⟨hx, rfl⟩ : x = leastBy key x ys ∧ ys = after := List.cons_eq_cons.mp hsplit
        refine ⟨[], y :: ys, by rw [← hx]; rfl, by simp, ?_⟩
        simp only [List.mem_cons, forall_eq_or_imp]
        exact ⟨by rw [← hx]; omega, hafter⟩
      | cons z before =>
        obtain ⟨rfl, htail⟩ : x = z ∧ ys = before ++ leastBy key x ys :: after := List.cons_eq_cons.mp hsplit
        refine ⟨x :: y :: before, after, by rw [List.cons_append, List.cons_append, ← htail], ?_, hafter⟩
        simp only [List.mem_cons, forall_eq_or_imp] at hbefore ⊢
        exact ⟨hbefore.1, by omega, hbefore.2⟩

end Sys2Proof.Proofs.Least
end

section
/-!
SAMPLE: requests, cancels and reads of the sample list (section 6.4).
-/

namespace Sys2Proof.Proofs.Samples

open Sys2Proof Sys2Proof.Machine Sys2Proof.Proofs.Accepted Sys2Proof.Proofs.Least

/-! ## The position a request is merged into (R112) -/

theorem mergedInto_of_far {ls m : Nat} {samples : List Nat} (hls : 1 ≤ ls)
    (hfar : ∀ e ∈ samples, m + ls ≤ e ∨ e + ls ≤ m) : mergedInto ls m samples = none := by
  have hnone : samples.filter (fun e => distance m e < ls) = [] := by
    refine List.filter_eq_nil_iff.mpr fun e he hnear => ?_
    have hdistance : distance m e < ls := of_decide_eq_true hnear
    have := hfar e he
    unfold distance at hdistance
    omega
  unfold mergedInto
  rw [hnone]

theorem mergedInto_of_nearest {ls m e : Nat} {before after : List Nat} (hbelow : m < e + ls) (habove : e < m + ls)
    (hbefore : ∀ x ∈ before, distance m e < distance m x) (hafter : ∀ x ∈ after, distance m e ≤ distance m x) :
    mergedInto ls m (before ++ e :: after) = some e := by
  have hnear : distance m e < ls := by unfold distance; omega
  have hfilter : (before ++ e :: after).filter (fun x => distance m x < ls) =
      before.filter (fun x => distance m x < ls) ++ e :: after.filter (fun x => distance m x < ls) := by
    rw [List.filter_append, List.filter_cons_of_pos (by simpa using hnear)]
  unfold mergedInto
  split
  next hnone => exact absurd (hfilter.symm.trans hnone) (by simp)
  next x xs hcons =>
    rw [hfilter] at hcons
    exact congrArg some (leastBy_of_split hcons.symm (fun y hy => hbefore y ((List.mem_filter.mp hy).1))
      fun y hy => hafter y ((List.mem_filter.mp hy).1))

/-! ## The transfer -/

section
variable {asked : Nat} {s : State}

theorem requestSample_merged {e : Nat}
    (h : mergedInto s.conf.ls (max asked s.planner.s) s.production.samples = some e) :
    requestSample asked s = (s, sampleReply (decide (asked < s.planner.s)) e s.production.samples.length) := by
  simp only [requestSample, h]

theorem requestSample_alone (h : mergedInto s.conf.ls (max asked s.planner.s) s.production.samples = none) :
    requestSample asked s =
      if 4 ≤ s.production.samples.length then (s, Reply.refused .full)
      else
        (insertSample (max asked s.planner.s) s,
          sampleReply (decide (asked < s.planner.s)) (max asked s.planner.s) (s.production.samples.length + 1)) := by
  simp only [requestSample, h]
  rfl

theorem sampleReply_eq (position count : Nat) :
    sampleReply (decide (asked < s.planner.s)) position count =
      if asked < s.planner.s then Reply.adjusted .clamped (words32 position ++ [word count])
      else Reply.done (words32 position ++ [word count]) := by
  simp only [sampleReply, decide_eq_true_eq]

end

theorem sample_accepted {s : State} (hmode : s.mode ≠ .setup) {b : Body} (hwords : 2 ≤ b.data.length) :
    (supervisorEntry 0x3B notSetup 2).refusal .supervisor b s.mode = none :=
  passes_supervisor (notSetup_of_ne hmode) hwords

theorem sampleLeft_eq (m : Nat) (p : Planner) :
    p.sampleLeft m =
      { p with
        course :=
          match p.course with
          | some (.sample e present) => some (.sample e (present && e != m))
          | other => other } := by
  unfold Planner.sampleLeft
  obtain ⟨state, start, nextRowId, course, rows⟩ := p
  match course with
  | none | some (.product _) | some .cullMode | some .noOrder => rfl
  | some (.sample e present) =>
    by_cases hsame : e = m
    · simp [hsame]
    · have hother : (e != m) = true := bne_iff_ne.mpr hsame
      simp only [if_neg hsame, hother, Bool.and_true]

theorem cancelSample_of_mem {m : Nat} {s : State} (h : m ∈ s.production.samples) :
    cancelSample m s =
      ({ s with
          production := { s.production with samples := s.production.samples.erase m }
          planner := s.planner.sampleLeft m },
        Reply.done []) := if_pos h

theorem cancelSample_of_not_mem {m : Nat} {s : State} (h : m ∉ s.production.samples) :
    cancelSample m s = (s, Reply.refused .notFound) := if_neg h

theorem exec_sampleRead {s : State} (h : Working s) (hmode : s.mode ≠ .setup) {arg : Byte} (b : Body) {r : Reply}
    (hr : readSamples arg s = r) :
    exec (.sampleRead .supervisor arg b) s = .next (transferred .supervisor b 0x3B r s) :=
  command_answer h (passes_supervisor (notSetup_of_ne hmode) (Nat.zero_le _)) (congrArg (Prod.mk _) hr)

theorem readSamples_range {arg : Byte} (h : 2 < arg.toNat) (s : State) : readSamples arg s = Reply.refused .range :=
  if_neg fun heq => by rw [heq] at h; exact absurd h (by decide)

/-- Settles O50. -/
theorem samplesAreRequestedAndCancelled : Obligations.SamplesAreRequestedAndCancelled := by
  intro s b h hmode asked m samples reply
  refine ⟨fun hwords hfar hls => ?_, fun before after e hwords hsamples hbelow habove hbefore hafter => ?_,
    fun hwords hmem => ?_, fun hwords hmem => ?_, exec_sampleRead h hmode b rfl,
    fun arg harg => exec_sampleRead h hmode b (readSamples_range harg s)⟩
  · have hact := requestSample_alone (asked := asked) (s := shiftOut .supervisor (b.data.length + 1) s)
      (mergedInto_of_far hls hfar)
    refine ⟨fun hroom => ?_, fun hfull => command_answer h (sample_accepted hmode hwords) (hact.trans (if_pos hfull))⟩
    obtain ⟨before, after, hsplit, hinserted, hbefore, hafter⟩ := insertOrdered_eq_append (fun a b => a < b) m samples
    refine ⟨before, after, hsplit, fun e he => by simpa using hbefore e he, fun e he => by simpa using hafter e he, ?_⟩
    have hrequest := command_changes (t := insertSample m s) h (sample_accepted hmode hwords)
      (hact.trans (if_neg (Nat.not_le.mpr hroom))) rfl rfl rfl rfl
    rw [sampleReply_eq, insertSample, hinserted] at hrequest
    exact hrequest
  · have hmerged : mergedInto s.conf.ls m s.production.samples = some e := by
      rw [show s.production.samples = before ++ e :: after from hsamples]
      exact mergedInto_of_nearest hbelow habove hbefore hafter
    have hact := requestSample_merged (asked := asked) (s := shiftOut .supervisor (b.data.length + 1) s) hmerged
    rw [sampleReply_eq] at hact
    exact command_answer h (sample_accepted hmode hwords) hact
  · have hact := cancelSample_of_mem (s := shiftOut .supervisor (b.data.length + 1) s) hmem
    rw [sampleLeft_eq] at hact
    exact command_changes h (sample_accepted hmode hwords) hact rfl rfl rfl rfl
  · exact command_answer h (sample_accepted hmode hwords)
      (cancelSample_of_not_mem (s := shiftOut .supervisor (b.data.length + 1) s) hmem)

end Sys2Proof.Proofs.Samples
end

section
/-!
RCP and RCP_ARM: the pending recipe is written, read, armed and promoted (section 6.3).
-/

namespace Sys2Proof.Proofs.Recipes

open Sys2Proof Sys2Proof.Machine Sys2Proof.Proofs.Accepted

/-! ## The sections an argument names (R105, R106) -/

theorem sectionOf_kind : ∀ (arg : Byte) (kind : Fin 8), arg.toNat = kind → sectionOf arg = some kind := by decide

theorem sectionOf_none : ∀ arg : Byte, 11 ≤ arg.toNat → arg.toNat < 64 → sectionOf arg = none := by decide

theorem read_pending : ∀ sec : Fin 11,
    sectionOf (BitVec.ofNat 8 (64 + sec)) = some sec.val ∧ (BitVec.ofNat 8 (64 + sec)).getLsbD 7 = false := by decide

theorem read_current : ∀ sec : Fin 11,
    sectionOf (BitVec.ofNat 8 (128 + sec)) = some sec.val ∧ (BitVec.ofNat 8 (128 + sec)).getLsbD 7 = true ∧
      (BitVec.ofNat 8 (128 + sec)).getLsbD 6 = false := by decide

/-- An argument of a read that names no section, or both recipes. -/
theorem read_undefined : ∀ arg : Byte, 64 ≤ arg.toNat → 11 ≤ arg.toNat % 64 ∨ 192 ≤ arg.toNat →
    sectionOf arg = none ∨ (arg.getLsbD 7 && arg.getLsbD 6) = true := by decide

/-! ## The words of a section -/

theorem sectionWords_kind (store : RecipeStore) (r : Recipe) (kind : Fin 8) :
    sectionWords store r kind = r.kinds[kind].words := dif_pos kind.isLt

theorem policyWords_eq (p : BlindPolicy) :
    [word p.code] = [match p with
      | .cull => (0 : Word)
      | .pass => 1] := by
  cases p <;> rfl

/-! ## Writes (R105) -/

section
variable {ws : List Word} {s : State} {sec : Nat}

theorem writeRecipe_busy (h : s.recipes.armedAt ≠ none) : writeRecipe (some sec) ws s = (s, Reply.refused .busy) :=
  if_pos (Option.isSome_iff_ne_none.mpr h)

theorem writeRecipe_written {r : Recipe} (h : s.recipes.armedAt = none)
    (hr : writeSection s.recipes.current s.recipes.pending sec ws = some r) :
    writeRecipe (some sec) ws s = (setPendingRecipe r s, Reply.done (sectionWords s.recipes r sec)) := by
  simp only [writeRecipe, h, hr, Option.isSome_none, Bool.false_eq_true, if_false]

theorem writeRecipe_range (h : s.recipes.armedAt = none)
    (hr : writeSection s.recipes.current s.recipes.pending sec ws = none) :
    writeRecipe (some sec) ws s = (s, Reply.refused .range) := by
  simp only [writeRecipe, h, hr, Option.isSome_none, Bool.false_eq_true, if_false]

end

theorem writeSection_kind (current r : Recipe) (kind : Fin 8) (ws : List Word) :
    writeSection current r kind ws = (kindEntryOf ws).map fun e => { r with kinds := r.kinds.set kind e } :=
  dif_pos kind.isLt

theorem writeSection_limits (current r : Recipe) (ws : List Word) :
    writeSection current r 8 ws = (limitsOf ws).map fun g => { r with limits := g } := rfl

theorem writeSection_policy (current r : Recipe) (ws : List Word) :
    writeSection current r 9 ws = (policyOf (valueAt ws 0)).map fun p => { r with policy := p } := rfl

theorem policyOf_of_words {ws : List Word} {p : BlindPolicy} (h : BitVec.ofNat 16 (valueAt ws 0) = word p.code) :
    policyOf (valueAt ws 0) = some p := by
  have hvalue : valueAt ws 0 = p.code := by
    have hword : (BitVec.ofNat 16 (valueAt ws 0)).toNat = valueAt ws 0 := by
      rw [valueAt, BitVec.ofNat_toNat, BitVec.setWidth_eq]
    rw [← hword, h]
    cases p <;> rfl
  rw [hvalue]
  cases p <;> rfl

theorem policyOf_range {n : Nat} (h : 1 < n) : policyOf n = none := by
  unfold policyOf
  split
  case h_3 => rfl
  all_goals omega

section
variable {s : State} (h : Working s) {b : Body} {i : Instr} {sec : Nat}
  (hruns : ∀ u, exec i u = recipeWrite (some sec) .supervisor b u) (hwords : sectionFixed (some sec) ≤ b.data.length)
include h hruns hwords

theorem exec_rcp_busy (harmed : s.recipes.armedAt ≠ none) :
    exec i s = .next (refusedFor .supervisor b 0x39 .busy s) := by
  rw [hruns]
  exact command_answer h (passes_supervisor rfl hwords)
    (writeRecipe_busy (s := shiftOut .supervisor (b.data.length + 1) s) harmed)

theorem exec_rcp_written (hdisarmed : s.recipes.armedAt = none) {r : Recipe}
    (hr : writeSection s.recipes.current s.recipes.pending sec b.data = some r) :
    exec i s =
      .next
        (transferred .supervisor b 0x39 (Reply.done (sectionWords s.recipes r sec))
          { s with recipes := { s.recipes with pending := r } }) := by
  rw [hruns]
  exact command_changes (t := setPendingRecipe r s) h (passes_supervisor rfl hwords)
    (writeRecipe_written (s := shiftOut .supervisor (b.data.length + 1) s) hdisarmed hr) rfl rfl rfl rfl

theorem exec_rcp_range (hdisarmed : s.recipes.armedAt = none)
    (hr : writeSection s.recipes.current s.recipes.pending sec b.data = none) :
    exec i s = .next (refusedFor .supervisor b 0x39 .range s) := by
  rw [hruns]
  exact command_answer h (passes_supervisor rfl hwords)
    (writeRecipe_range (s := shiftOut .supervisor (b.data.length + 1) s) hdisarmed hr)

end

theorem exec_rcpWriteKind {arg : Byte} {sec : Nat} (harg : sectionOf arg = some sec) (b : Body) (u : State) :
    exec (.rcpWriteKind .supervisor arg b) u = recipeWrite (some sec) .supervisor b u := by
  rw [← harg]
  rfl

theorem sectionFixed_kind (kind : Fin 8) : sectionFixed (some kind.val) = 5 :=
  if_pos (Nat.le_of_lt kind.isLt)

theorem exec_rcpWriteKind_undefined {s : State} (h : Working s) {arg : Byte} (b : Body) (harg : sectionOf arg = none) :
    exec (.rcpWriteKind .supervisor arg b) s = .next (refusedFor .supervisor b 0x39 .range s) := by
  show recipeWrite (sectionOf arg) .supervisor b s = _
  rw [harg]
  exact command_answer h (passes_supervisor rfl (Nat.zero_le _)) rfl

/-- The kind entry five words give, not yet checked. -/
def rawKind (ws : List Word) : KindEntry := ⟨valueAt ws 0, valueAt ws 1, valueAt ws 2, valueAt ws 3, valueAt ws 4⟩

def KindFits (e : KindEntry) : Prop :=
  e.gate ≤ 255 ∧ e.weight ≤ 255 ∧ 1 ≤ e.smin ∧ e.smin ≤ e.smaj ∧ e.smaj ≤ e.scrit

theorem kindEntryOf_eq (ws : List Word) :
    (KindFits (rawKind ws) → kindEntryOf ws = some (rawKind ws)) ∧ (¬KindFits (rawKind ws) → kindEntryOf ws = none) :=
  ⟨fun h => if_pos h, fun h => if_neg h⟩

/-- The grade limits five words give, not yet checked. -/
def rawLimits (ws : List Word) : Limits := ⟨valueAt ws 0, valueAt ws 1, valueAt ws 2, valueAt ws 3, valueAt ws 4⟩

def LimitsFit (g : Limits) : Prop := g.da ≤ g.db ∧ g.nb ≤ 15 ∧ g.edge ≤ 255 ∧ g.fe ≤ 64

theorem limitsOf_eq (ws : List Word) :
    (LimitsFit (rawLimits ws) → limitsOf ws = some (rawLimits ws)) ∧ (¬LimitsFit (rawLimits ws) → limitsOf ws = none) :=
  ⟨fun h => if_pos h, fun h => if_neg h⟩

section
variable {s : State} (h : Working s) {b : Body} (hdisarmed : s.recipes.armedAt = none)
include h hdisarmed

theorem exec_kind_written {arg : Byte} {kind : Fin 8} (harg : arg.toNat = kind) (hwords : 5 ≤ b.data.length) :
    (KindFits (rawKind b.data) →
        exec (.rcpWriteKind .supervisor arg b) s =
          .next
            (transferred .supervisor b 0x39 (Reply.done (rawKind b.data).words)
              { s with
                recipes :=
                  { s.recipes with
                    pending :=
                      { s.recipes.pending with kinds := s.recipes.pending.kinds.set kind (rawKind b.data) } } })) ∧
      (¬KindFits (rawKind b.data) →
        exec (.rcpWriteKind .supervisor arg b) s = .next (refusedFor .supervisor b 0x39 .range s)) := by
  have hruns := exec_rcpWriteKind (sectionOf_kind arg kind harg) b
  have hfixed : sectionFixed (some kind.val) ≤ b.data.length := by rw [sectionFixed_kind]; exact hwords
  refine ⟨fun hfits => ?_, fun hunfit => exec_rcp_range h hruns hfixed hdisarmed ?_⟩
  · have hwrite := exec_rcp_written h hruns hfixed hdisarmed
      ((writeSection_kind _ _ kind _).trans (congrArg _ ((kindEntryOf_eq b.data).1 hfits)))
    rw [sectionWords_kind, Fin.getElem_fin, Vector.getElem_set_self] at hwrite
    exact hwrite
  · rw [writeSection_kind, (kindEntryOf_eq b.data).2 hunfit]
    rfl

theorem exec_limits_written (hwords : 5 ≤ b.data.length) :
    (LimitsFit (rawLimits b.data) →
        exec (.rcpWriteLimits .supervisor b) s =
          .next
            (transferred .supervisor b 0x39 (Reply.done (rawLimits b.data).words)
              { s with
                recipes := { s.recipes with pending := { s.recipes.pending with limits := rawLimits b.data } } })) ∧
      (¬LimitsFit (rawLimits b.data) →
        exec (.rcpWriteLimits .supervisor b) s = .next (refusedFor .supervisor b 0x39 .range s)) := by
  refine ⟨fun hfits => ?_, fun hunfit => exec_rcp_range h (sec := 8) (fun _ => rfl) hwords hdisarmed ?_⟩
  · exact exec_rcp_written h (sec := 8) (fun _ => rfl) hwords hdisarmed
      ((writeSection_limits _ _ _).trans (congrArg _ ((limitsOf_eq b.data).1 hfits)))
  · rw [writeSection_limits, (limitsOf_eq b.data).2 hunfit]
    rfl

theorem exec_policy_written (hwords : 1 ≤ b.data.length) :
    (∀ p : BlindPolicy, [BitVec.ofNat 16 (valueAt b.data 0)] = [word p.code] →
        exec (.rcpWritePolicy .supervisor b) s =
          .next
            (transferred .supervisor b 0x39 (Reply.done [word p.code])
              { s with recipes := { s.recipes with pending := { s.recipes.pending with policy := p } } })) ∧
      (1 < valueAt b.data 0 →
        exec (.rcpWritePolicy .supervisor b) s = .next (refusedFor .supervisor b 0x39 .range s)) := by
  refine ⟨fun p hword => ?_, fun hrange => exec_rcp_range h (sec := 9) (fun _ => rfl) hwords hdisarmed ?_⟩
  · exact exec_rcp_written h (sec := 9) (fun _ => rfl) hwords hdisarmed
      ((writeSection_policy _ _ _).trans (congrArg _ (policyOf_of_words (List.cons.inj hword).1)))
  · rw [writeSection_policy, policyOf_range hrange]
    rfl

end

/-! ## Reads (R106) -/

theorem exec_rcpRead {s : State} (h : Working s) {arg : Byte} (b : Body) {r : Reply} (hr : readRecipe arg s = r) :
    exec (.rcpRead .supervisor arg b) s = .next (transferred .supervisor b 0x39 r s) :=
  command_answer h (passes_supervisor rfl (Nat.zero_le _)) (congrArg (Prod.mk _) hr)

theorem readRecipe_pending (s : State) (sec : Fin 11) :
    readRecipe (BitVec.ofNat 8 (64 + sec)) s = Reply.done (sectionWords s.recipes s.recipes.pending sec) := by
  obtain ⟨hsec, hbit⟩ := read_pending sec
  simp only [readRecipe, hsec, hbit, Bool.false_and, Bool.false_eq_true, if_false]

theorem readRecipe_current (s : State) (sec : Fin 11) :
    readRecipe (BitVec.ofNat 8 (128 + sec)) s = Reply.done (sectionWords s.recipes s.recipes.current sec) := by
  obtain ⟨hsec, hbit, hother⟩ := read_current sec
  simp only [readRecipe, hsec, hbit, hother, Bool.and_false, Bool.false_eq_true, if_false, if_true]

theorem readRecipe_range {n : Nat} (hlow : 64 ≤ n) (hhigh : n < 256) (h : 11 ≤ n % 64 ∨ 192 ≤ n) (s : State) :
    readRecipe (BitVec.ofNat 8 n) s = Reply.refused .range := by
  have hvalue : (BitVec.ofNat 8 n).toNat = n := by rw [BitVec.toNat_ofNat]; omega
  unfold readRecipe
  rcases read_undefined (BitVec.ofNat 8 n) (by rwa [hvalue]) (by rwa [hvalue]) with hnone | hboth
  · split
    · rfl
    · simp only [hnone]
  · exact if_pos hboth

/-! ## RCP_ARM (R107 to R109) -/

theorem promotes_iff (s : State) (a : Nat) :
    s.promotes a = true ↔ a ≤ s.map.w ∧ ∀ x ∈ s.assembler.openFlaws, a ≤ x.flaw.firstRow := by
  simp [State.promotes]

theorem promotionTest_of_passes {s : State} {a : Nat} (harmed : s.recipes.armedAt = some a)
    (hpasses : a ≤ s.map.w ∧ ∀ x ∈ s.assembler.openFlaws, a ≤ x.flaw.firstRow) : promotionTest s = promote s := by
  unfold promotionTest
  rw [harmed]
  exact if_pos ((promotes_iff s a).mpr hpasses)

theorem promotionTest_of_waits {s : State}
    (h : ∀ a, s.recipes.armedAt = some a → ¬(a ≤ s.map.w ∧ ∀ x ∈ s.assembler.openFlaws, a ≤ x.flaw.firstRow)) :
    promotionTest s = s := by
  unfold promotionTest
  split
  next a ha => exact if_neg fun hpromotes => h a ha ((promotes_iff s a).mp hpromotes)
  next => rfl

theorem promote_eq (s : State) :
    promote s =
      { s with
        recipes :=
          ⟨s.recipes.pending, s.recipes.pending, if s.recipes.generation < 255 then s.recipes.generation + 1 else 0, none⟩
        links :=
          { s.links with supervisor := { s.links.supervisor with flags := s.links.supervisor.flags ||| 64 } } } := rfl

section
variable {s : State} {asked : Nat}

theorem armAt_busy (h : s.recipes.armedAt ≠ none) : armAt asked s = (s, Reply.refused .busy) :=
  if_pos (Option.isSome_iff_ne_none.mpr h)

theorem armAt_in_setup (hdisarmed : s.recipes.armedAt = none) (hmode : s.mode = .setup) :
    armAt asked s = (promote s, Reply.done (armWords asked true)) := by
  unfold armAt
  rw [if_neg (by simp [hdisarmed]), if_pos hmode]

theorem armAt_of_ribbon (hdisarmed : s.recipes.armedAt = none) (hmode : s.mode ≠ .setup) :
    armAt asked s = armTested asked s := by
  unfold armAt
  rw [if_neg (by simp [hdisarmed]), if_neg hmode]

/-- The position is reached, and no open flaw begins before it. -/
def Reached (a : Nat) (s : State) : Prop := a ≤ s.map.w ∧ ∀ x ∈ s.assembler.openFlaws, a ≤ x.flaw.firstRow

theorem armTested_of_reached (h : Reached (max asked s.map.w) s) :
    armTested asked s =
      (promote s,
        if asked < s.map.w then Reply.adjusted .clamped (words32 (max asked s.map.w) ++ [1])
        else Reply.done (words32 (max asked s.map.w) ++ [1])) := by
  have hpromotes : (armRecipe (max asked s.map.w) s).promotes (max asked s.map.w) = true := (promotes_iff _ _).mpr h
  simp only [armTested]
  rw [hpromotes, promotionTest_of_passes (s := armRecipe (max asked s.map.w) s) rfl h]
  rfl

theorem armTested_of_not_reached (h : ¬Reached (max asked s.map.w) s) :
    armTested asked s =
      (armRecipe (max asked s.map.w) s,
        if asked < s.map.w then Reply.adjusted .clamped (words32 (max asked s.map.w) ++ [0])
        else Reply.done (words32 (max asked s.map.w) ++ [0])) := by
  have hwaits : (armRecipe (max asked s.map.w) s).promotes (max asked s.map.w) = false :=
    eq_false_of_ne_true fun hpromotes => h ((promotes_iff _ _).mp hpromotes)
  have hsame : promotionTest (armRecipe (max asked s.map.w) s) = armRecipe (max asked s.map.w) s := by
    refine promotionTest_of_waits fun a ha => ?_
    obtain rfl : max asked s.map.w = a := Option.some.inj ha
    exact h
  simp only [armTested]
  rw [hwaits, hsame]
  rfl

end

theorem arm_accepted {b : Body} (hwords : 2 ≤ b.data.length) (m : Mode) :
    (supervisorEntry 0x3A anyMode (armFixed 0)).refusal .supervisor b m = none := passes_supervisor rfl hwords

theorem exec_rcpArm_range {s : State} (h : Working s) {arg : Byte} (b : Body) (harg : 1 < arg.toNat) :
    exec (.rcpArm .supervisor arg b) s = .next (refusedFor .supervisor b 0x3A .range s) := by
  have hother : arg ≠ 0 := fun heq => by rw [heq] at harg; exact absurd harg (by decide)
  exact command_answer h (passes_supervisor rfl (by rw [armFixed, if_neg hother]; exact Nat.zero_le _)) (if_neg hother)

/-- RCP_ARM with argument 0 (R107). -/
theorem exec_rcpArm {s : State} (h : Working s) {b : Body} (hwords : 2 ≤ b.data.length) {t : State} {r : Reply}
    (hact : armAt (value32At b.data 0) (shiftOut .supervisor (b.data.length + 1) s) =
      (shiftOut .supervisor (b.data.length + 1) t, r))
    (hframe : { t with recipes := s.recipes, links := s.links } = s) :
    exec (.rcpArm .supervisor 0 b) s = .next (transferred .supervisor b 0x3A r t) :=
  command_changes h (arm_accepted hwords s.mode) hact (congrArg (fun u : State => u.dispatcher.cuts) hframe :)
    (congrArg (fun u : State => u.dispatcher.routing) hframe :) (congrArg (fun u : State => u.production.orders) hframe :)
    (congrArg State.mode hframe :)

/-- Settles O51. -/
theorem recipesAreWrittenAndArmed : Obligations.RecipesAreWrittenAndArmed := by
  intro s b h ws store e g kindFits limitsFit kindWords limitWords policyWords storeWords written returned refused read
  have hpolicy : ∀ p, policyWords p = [word p.code] := fun p => (policyWords_eq p).symm
  have hread : ∀ n r, readRecipe (BitVec.ofNat 8 n) s = r → read n = .next (transferred .supervisor b 0x39 r s) :=
    fun n r hr => exec_rcpRead h b hr
  refine ⟨fun hdisarmed => ⟨fun kind arg harg => exec_kind_written h hdisarmed harg, exec_limits_written h hdisarmed, ?_,
      exec_rcp_written h (sec := 10) (fun _ => rfl) (Nat.zero_le _) hdisarmed rfl⟩,
    fun harmed => ⟨fun arg harg hwords => ?_, fun hwords => ?_, fun hwords => ?_, ?_⟩, fun arg hlow hhigh => ?_,
    fun kind => ?_, ⟨hread 72 _ (readRecipe_pending s 8), hread 136 _ (readRecipe_current s 8)⟩, ?_,
    ⟨hread 74 _ (readRecipe_pending s 10), hread 138 _ (readRecipe_current s 10)⟩,
    fun n hlow hhigh hrange => hread n _ (readRecipe_range hlow hhigh hrange s), ?_,
    fun arg harg => exec_rcpArm_range h b harg, ?_⟩
  · simp only [hpolicy]
    exact exec_policy_written h hdisarmed
  · have hsec := sectionOf_kind arg ⟨arg.toNat, Nat.lt_succ_of_le harg⟩ rfl
    refine exec_rcp_busy h (exec_rcpWriteKind hsec b) ?_ harmed
    rw [sectionFixed_kind]
    exact hwords
  · exact exec_rcp_busy h (sec := 8) (fun _ => rfl) hwords harmed
  · exact exec_rcp_busy h (sec := 9) (fun _ => rfl) hwords harmed
  · exact exec_rcp_busy h (sec := 10) (fun _ => rfl) (Nat.zero_le _) harmed
  · exact exec_rcpWriteKind_undefined h b (sectionOf_none arg hlow hhigh)
  · have hpending := readRecipe_pending s ⟨kind, by omega⟩
    have hcurrent := readRecipe_current s ⟨kind, by omega⟩
    rw [sectionWords_kind] at hpending hcurrent
    exact ⟨hread _ _ hpending, hread _ _ hcurrent⟩
  · rw [hpolicy, hpolicy]
    exact ⟨hread 73 _ (readRecipe_pending s 9), hread 137 _ (readRecipe_current s 9)⟩
  · intro a armed promoted raised passes arm reply hwords
    refine ⟨fun harmed => ?_, fun hdisarmed hmode => ?_, fun hdisarmed hmode hpasses => ?_,
      fun hdisarmed hmode hwaits => ?_⟩
    · exact exec_rcpArm h hwords (armAt_busy (s := shiftOut .supervisor (b.data.length + 1) s) harmed) rfl
    · exact exec_rcpArm h hwords (t := promote s)
        (armAt_in_setup (s := shiftOut .supervisor (b.data.length + 1) s) hdisarmed hmode) rfl
    · exact exec_rcpArm h hwords (t := promote s)
        ((armAt_of_ribbon (s := shiftOut .supervisor (b.data.length + 1) s) hdisarmed hmode).trans
          (armTested_of_reached hpasses)) rfl
    · exact exec_rcpArm h hwords (t := armRecipe armed s)
        ((armAt_of_ribbon (s := shiftOut .supervisor (b.data.length + 1) s) hdisarmed hmode).trans
          (armTested_of_not_reached hwaits)) rfl
  · exact command_changes (t := disarmRecipe s) h (passes_supervisor rfl (Nat.zero_le _)) rfl rfl rfl rfl rfl

end Sys2Proof.Proofs.Recipes
end

section
/-!
The lane references (section 3.6), and how a closing flaw is judged (section 4.4).
-/

namespace Sys2Proof.Proofs.Judging

open Sys2Proof Sys2Proof.Machine

/-! ## A step of the assembler that no level condition sees -/

theorem blockStep_changes {s : State} (h : Working s) {f : State → State} (hcuts : (f s).dispatcher.cuts = s.dispatcher.cuts)
    (hroutes : (f s).dispatcher.routing = s.dispatcher.routing) (horders : (f s).production.orders = s.production.orders)
    (hmode : (f s).mode = s.mode) : blockStep f s = .next (f s) := by
  rw [blockStep_of_working h, setRisenLevels_of_fields hcuts hroutes horders hmode]

theorem exec_entryTake {s : State} (h : Working s) {e : Entry} {rest : List Entry} (hidle : s.intake.inProcess = none)
    (hqueue : s.intake.queue = e :: rest) :
    exec .entryTake s = .next { s with intake := { s.intake with queue := rest, inProcess := some e } } := by
  have htaken : s.intake.takeOldest = { s.intake with queue := rest, inProcess := some e } := by
    simp only [Intake.takeOldest, hidle, hqueue]
  rw [← htaken]
  exact blockStep_changes h rfl rfl rfl rfl

/-! ## References (R52 to R54) -/

theorem exec_backgroundEntryComplete {s : State} (h : Working s) {lane : Fin 12} {channel : Channel} {level : Nat}
    (hentry : s.intake.inProcess = some (.background lane channel level)) :
    exec .backgroundEntryComplete s = .next (completeBackground lane channel level (finishEntry s)) := by
  have hcompletion : backgroundCompletion s = completeBackground lane channel level (finishEntry s) := by
    simp only [backgroundCompletion, hentry]
  rw [← hcompletion]
  exact blockStep_changes h (by rw [hcompletion]; rfl) (by rw [hcompletion]; rfl) (by rw [hcompletion]; rfl)
    (by rw [hcompletion]; rfl)

theorem distance_eq_natAbs (a b : Nat) : distance a b = ((a : Int) - (b : Int)).natAbs := by
  unfold distance
  omega

theorem settled_iff (x : Reference) : x.settled = true ↔ x.settle = 8 := by simp [Reference.settled, Config.settledCount]

theorem contrastOf_eq (x : Reference) (peak : Nat) :
    contrastOf x peak =
      if x.settle = 8 then min 255 (((16 * peak : Int) - (x.level : Int)).natAbs * 64 / max x.level 256) else 255 := by
  have hpeak : ((16 * peak : Nat) : Int) = 16 * (peak : Int) := Int.natCast_mul 16 peak
  unfold contrastOf
  simp only [settled_iff, distance_eq_natAbs, hpeak]

/-- Settles O24. -/
theorem samplesShapeTheReferenceOfContrast : Obligations.SamplesShapeTheReferenceOfContrast :=
  ⟨fun _ h => ⟨fun _ _ hidle hqueue => exec_entryTake h hidle hqueue,
    fun _ _ _ hentry _ _ => exec_backgroundEntryComplete h hentry⟩, contrastOf_eq⟩

/-! ## The judgement of a closing flaw (R71 to R77) -/

theorem isBorder_iff (zone : Across) (f : OpenFlaw) :
    f.isBorder zone = true ↔ f.xMax < zone.xl ∨ zone.xr < f.xMin := by simp [OpenFlaw.isBorder]

theorem judge_of_border {zone : Across} {f : OpenFlaw} (h : f.xMax < zone.xl ∨ zone.xr < f.xMin) (store : RecipeStore) :
    judge zone store f = none := if_pos ((isBorder_iff zone f).mpr h)

/-- The pending recipe judges a flaw that begins at or after the arming position and is not late (R73). -/
def JudgedByPending (store : RecipeStore) (f : OpenFlaw) : Prop :=
  ∃ a, store.armedAt = some a ∧ a ≤ f.firstRow ∧ f.late = false

theorem chosen_of_pending {store : RecipeStore} {f : OpenFlaw} (h : JudgedByPending store f) :
    store.chosen f = (store.pending, if store.generation < 255 then store.generation + 1 else 0) := by
  obtain ⟨a, harmed, hfirst, hlate⟩ := h
  simp only [RecipeStore.chosen, harmed]
  exact if_pos ⟨hfirst, by rw [hlate]; rfl⟩

theorem chosen_of_current {store : RecipeStore} {f : OpenFlaw} (h : ¬JudgedByPending store f) :
    store.chosen f = (store.current, store.generation) := by
  unfold RecipeStore.chosen
  split
  next a harmed => exact if_neg fun ⟨hfirst, hlate⟩ => h ⟨a, harmed, hfirst, by simpa using hlate⟩
  next => rfl

/-- A flaw that is no border flaw is clipped to the net zone and judged by the recipe chosen for it. -/
theorem judge_of_inside {zone : Across} {f : OpenFlaw} (hleft : zone.xl ≤ f.xMax) (hright : f.xMin ≤ zone.xr)
    (store : RecipeStore) :
    let xMin := max f.xMin zone.xl
    let xMax := min f.xMax zone.xr
    let size := min 65535 (max (f.lastRow - f.firstRow + 1) (xMax - xMin + 1))
    let entry := (store.chosen f).1.kinds[f.kind.code]
    judge zone store f =
      some
        { xMin := xMin
          xMax := xMax
          clipped := decide (f.xMin < zone.xl) || decide (zone.xr < f.xMax)
          generation := (store.chosen f).2
          size := size
          cls := classify entry f.contrast size
          points := pointsOf entry (classify entry f.contrast size) f.contrast size } :=
  if_neg fun hborder => by have := (isBorder_iff zone f).mp hborder; omega

section
variable {e : KindEntry} {contrast size : Nat}

theorem classify_below_gate (h : contrast < e.gate) : classify e contrast size = .faint := if_pos h

theorem classify_critical (hgate : e.gate ≤ contrast) (hsize : e.scrit ≤ size) : classify e contrast size = .critical := by
  unfold classify
  rw [if_neg (Nat.not_lt.mpr hgate), if_pos hsize]

theorem classify_major (hgate : e.gate ≤ contrast) (hcritical : size < e.scrit) (hsize : e.smaj ≤ size) :
    classify e contrast size = .major := by
  unfold classify
  rw [if_neg (Nat.not_lt.mpr hgate), if_neg (Nat.not_le.mpr hcritical), if_pos hsize]

theorem classify_minor (hgate : e.gate ≤ contrast) (hcritical : size < e.scrit) (hmajor : size < e.smaj)
    (hsize : e.smin ≤ size) : classify e contrast size = .minor := by
  unfold classify
  rw [if_neg (Nat.not_lt.mpr hgate), if_neg (Nat.not_le.mpr hcritical), if_neg (Nat.not_le.mpr hmajor), if_pos hsize]

theorem classify_faint (hgate : e.gate ≤ contrast) (hcritical : size < e.scrit) (hmajor : size < e.smaj)
    (hminor : size < e.smin) : classify e contrast size = .faint := by
  unfold classify
  rw [if_neg (Nat.not_lt.mpr hgate), if_neg (Nat.not_le.mpr hcritical), if_neg (Nat.not_le.mpr hmajor),
    if_neg (Nat.not_le.mpr hminor)]

end

theorem pointsOf_faint (e : KindEntry) (contrast size : Nat) : pointsOf e .faint contrast size = 0 := if_pos rfl

theorem pointsOf_of_ne {cls : FlawClass} (h : cls ≠ .faint) (e : KindEntry) (contrast size : Nat) :
    pointsOf e cls contrast size = min 4095 (e.weight * (size + 1) * (contrast + 32) / 2048) := if_neg h

/-- Settles O28. -/
theorem closingFlawIsJudged : Obligations.ClosingFlawIsJudged := by
  refine ⟨fun zone store f => ⟨fun hborder => judge_of_border hborder store, fun hleft hright => ?_⟩,
    fun e contrast size => ⟨classify_below_gate, classify_critical, classify_major, classify_minor, classify_faint,
      pointsOf_faint e contrast size, fun c hc => pointsOf_of_ne hc e contrast size⟩⟩
  refine ⟨_, judge_of_inside hleft hright store, rfl, rfl, by simp, rfl, fun hpending => ?_, fun hcurrent => ?_⟩
  · rw [chosen_of_pending hpending]
    exact ⟨rfl, rfl, rfl⟩
  · rw [chosen_of_current hcurrent]
    exact ⟨rfl, rfl, rfl⟩

end Sys2Proof.Proofs.Judging
end

section
/-!
A MARK or GAP entry completes: W moves, the sweep closes what it has passed, and the promotion test is made (R67 to R70,
R109).
-/

namespace Sys2Proof.Proofs.Sweeping

open Sys2Proof Sys2Proof.Machine Sys2Proof.Proofs.Judging Sys2Proof.Proofs.SpanCover

/-! ## The flaws a sweep closes, in their order (R67) -/

theorem openFlaws_slots_lt (t : FlawTable) : t.openFlaws.Pairwise fun x y => x.slot < y.slot := by
  unfold FlawTable.openFlaws
  rw [List.pairwise_filterMap]
  refine (List.pairwise_lt_finRange 32).imp fun {i j} hij x hx y hy => ?_
  rw [Option.map_eq_some_iff] at hx hy
  obtain ⟨-, -, rfl⟩ := hx
  obtain ⟨-, -, rfl⟩ := hy
  exact hij

theorem sweepList_ordered (s : State) :
    s.sweepList.Pairwise fun x y =>
      x.flaw.firstRow < y.flaw.firstRow ∨ (x.flaw.firstRow = y.flaw.firstRow ∧ x.slot < y.slot) := by
  have hslots := (openFlaws_slots_lt s.assembler).filter fun x => s.passed x.flaw
  have hstable := sortOrdered_stable (precedes := fun x y : Slotted => x.flaw.firstRow < y.flaw.firstRow)
    (fun a b hab => by simp at hab ⊢; omega) (fun a b c hab => by simp at hab ⊢; omega) hslots
  refine hstable.imp fun {x y} h => ?_
  simp only [decide_eq_true_eq, decide_eq_false_iff_not] at h
  rcases h with hlt | ⟨hnot, hslot⟩
  · exact .inl hlt
  · by_cases heq : x.flaw.firstRow = y.flaw.firstRow
    · exact .inr ⟨heq, hslot⟩
    · exact .inl (by omega)

theorem sweepList_perm (s : State) :
    s.sweepList.Perm (s.assembler.openFlaws.filter fun x => decide (x.flaw.lastRow + s.conf.gapTol < s.map.w)) :=
  sortOrdered_perm _ _

/-! ## What is open after the sweep -/

theorem closeAll_assembler (xs : List Slotted) :
    ∀ s, (xs.foldl (fun s x => closeFlaw false x s) s).assembler = xs.foldl (fun t x => t.free x.slot) s.assembler := by
  induction xs with
  | nil => exact fun _ => rfl
  | cons x xs ih => intro s; rw [List.foldl_cons, List.foldl_cons, ih, closeFlaw_assembler]

theorem slots_freeAll (xs : List Slotted) (i : Fin 32) :
    ∀ t : FlawTable, (xs.foldl (fun t x => t.free x.slot) t).slots[i] =
      if xs.any (fun x => x.slot == i) then none else t.slots[i] := by
  induction xs with
  | nil => exact fun _ => rfl
  | cons x xs ih =>
    intro t
    rw [List.foldl_cons, ih, slots_free, List.any_cons]
    by_cases hrest : xs.any (fun x => x.slot == i) = true
    · rw [if_pos hrest, if_pos (by rw [hrest, Bool.or_true])]
    · rw [if_neg hrest]
      by_cases hx : x.slot = i
      · rw [if_pos hx, if_pos (by simp [hx])]
      · rw [if_neg hx, if_neg (by simpa [hx] using hrest)]

/-- A table whose slots lose the flaws that `keep` rejects holds the open flaws that it keeps. -/
theorem openFlaws_of_filtered {t u : FlawTable} {keep : Slotted → Bool}
    (h : ∀ i : Fin 32, u.slots[i] = (t.slots[i]).filter fun f => keep ⟨i, f⟩) :
    u.openFlaws = t.openFlaws.filter keep := by
  unfold FlawTable.openFlaws
  rw [List.filter_filterMap]
  refine congrArg (fun f => List.filterMap f _) (funext fun i => ?_)
  rw [h i]
  cases t.slots[i] with
  | none => rfl
  | some f => cases hkeep : keep ⟨i, f⟩ <;> simp [Option.filter, hkeep]

theorem sweep_openFlaws (s : State) :
    (sweep s).assembler.openFlaws =
      s.assembler.openFlaws.filter fun x => decide (s.map.w ≤ x.flaw.lastRow + s.conf.gapTol) := by
  refine openFlaws_of_filtered fun i => ?_
  have hslot : (sweep s).assembler.slots[i] = if s.sweepList.any (fun x => x.slot == i) then none else s.assembler.slots[i] := by
    rw [sweep, closeAll_assembler, slots_freeAll]
  have hclosed : s.sweepList.any (fun x => x.slot == i) = true ↔
      ∃ f, s.assembler.slots[i] = some f ∧ f.lastRow + s.conf.gapTol < s.map.w := by
    simp only [List.any_eq_true, beq_iff_eq, State.sweepList, mem_sortOrdered, List.mem_filter, mem_openFlaws, State.passed,
      decide_eq_true_eq]
    exact ⟨fun ⟨x, ⟨hx, hpassed⟩, hi⟩ => ⟨x.flaw, hi ▸ hx, hpassed⟩, fun ⟨f, hf, hpassed⟩ => ⟨⟨i, f⟩, ⟨hf, hpassed⟩, rfl⟩⟩
  rw [hslot]
  cases hf : s.assembler.slots[i] with
  | none => simp
  | some f =>
    by_cases hpassed : f.lastRow + s.conf.gapTol < s.map.w
    · rw [if_pos (hclosed.mpr ⟨f, hf, hpassed⟩)]
      simp [Option.filter, Nat.not_le.mpr hpassed]
    · rw [if_neg fun hany => by
        obtain ⟨g, hg, hpassed'⟩ := hclosed.mp hany
        rw [hf] at hg
        exact hpassed (Option.some.inj hg ▸ hpassed')]
      simp [Option.filter, Nat.not_lt.mp hpassed]

/-! ## The closing sequence (R70) -/

theorem closeFlaw_border {forced : Bool} {x : Slotted} {s : State} (h : judge s.conf.netZone s.recipes x.flaw = none) :
    closeFlaw forced x s =
      { s.count (fun c => { c with border := bump c.border }) with assembler := s.assembler.free x.slot } := by
  unfold closeFlaw closeRecord
  rw [h]
  rfl

theorem closeFlaw_released {forced : Bool} {x : Slotted} {s : State} {j : Judged}
    (h : judge s.conf.netZone s.recipes x.flaw = some j) (hbehind : x.flaw.lastRow < s.map.eClosed) :
    closeFlaw forced x s =
      { s.count (Counts.addFlaw x.flaw.kind j.cls) with assembler := s.assembler.free x.slot } := by
  unfold closeFlaw closeRecord
  rw [h]
  simp only [if_pos hbehind]
  rfl

theorem closeFlaw_mapped {forced : Bool} {x : Slotted} {s : State} {j : Judged}
    (h : judge s.conf.netZone s.recipes x.flaw = some j) (hahead : s.map.eClosed ≤ x.flaw.lastRow) :
    closeFlaw forced x s =
      let t := handOver (recordOf x.flaw j forced) (s.count (Counts.addFlaw x.flaw.kind j.cls))
      { t with assembler := t.assembler.free x.slot } := by
  unfold closeFlaw closeRecord
  rw [h]
  simp only [if_neg (Nat.not_lt.mpr hahead)]

/-! ## The completion of a MARK and of a GAP -/

/-- What a MARK or GAP completion leaves of the blocks that the level conditions read. -/
theorem blockStep_sweeps {s t : State} (h : Working s) {f : State → State} (hf : f s = promotionTest (sweep t))
    (hdispatcher : t.dispatcher = s.dispatcher) (hproduction : t.production = s.production) (hmode : t.mode = s.mode) :
    blockStep f s = .next (promotionTest (sweep t)) := by
  rw [← hf]
  refine blockStep_changes h ?_ ?_ ?_ ?_ <;> rw [hf]
  · rw [promotionTest_dispatcher, sweep_dispatcher, hdispatcher]
  · rw [promotionTest_dispatcher, sweep_dispatcher, hdispatcher]
  · rw [promotionTest_production, sweep_production, hproduction]
  · rw [promotionTest_mode, sweep_mode, hmode]

theorem advanceToMark_eq (m : Nat) (s : State) :
    advanceToMark m s =
      { s with
        map := { s.map with w := max s.map.w m }
        links := { s.links with staleArmed := s.links.staleArmed || decide (s.map.w < m) } } := by
  unfold advanceToMark
  by_cases hmoves : s.map.w < m
  · rw [if_pos hmoves, Nat.max_eq_right (Nat.le_of_lt hmoves), decide_eq_true hmoves, Bool.or_true]
  · rw [if_neg hmoves, Nat.max_eq_left (Nat.not_lt.mp hmoves), decide_eq_false hmoves, Bool.or_false]

theorem exec_markEntryComplete {s : State} (h : Working s) {m : Nat} (hentry : s.intake.inProcess = some (.mark m)) :
    exec .markEntryComplete s = .next (promotionTest (sweep (advanceToMark m (finishEntry s)))) := by
  refine blockStep_sweeps h (by simp only [markCompletion, hentry]; rfl) ?_ ?_ ?_ <;> rw [advanceToMark_eq] <;> rfl

theorem exec_gapEntryComplete {s : State} (h : Working s) {first last : Nat} {cause : GapCause}
    (hentry : s.intake.inProcess = some (.gap first last cause)) :
    exec .gapEntryComplete s =
      .next
        (promotionTest (sweep (advanceToGap last (addSpan (min first s.map.w) last cause.span (finishEntry s))))) := by
  refine blockStep_sweeps h (by simp only [gapCompletion, hentry]; rfl) ?_ ?_ ?_
  · exact addSpan_dispatcher _ _ _ _
  · exact addSpan_production _ _ _ _
  · exact addSpan_mode _ _ _ _

/-- The glass of a span that is not behind E_closed is covered with its cause. -/
theorem addSpan_covers {first last : Nat} {cause : SpanCause} {s : State} (hahead : s.map.eClosed ≤ last)
    (hlast : last ≤ 4294967295) :
    ∃ x ∈ (addSpan first last cause s).map.spans, x.first ≤ first ∧ last ≤ x.last ∧ x.causes &&& cause.bit = cause.bit := by
  have hmin : min last 4294967295 = last := Nat.min_eq_left hlast
  rw [addSpan_spans cause (by rw [hmin]; exact hahead), hmin]
  obtain ⟨⟨x, hx, hfirst, hover, hcauses⟩, -⟩ := mergeSpan_covers ⟨min first 4294967295, last, cause.bit⟩ s.map.spans
  exact ⟨x, hx, Nat.le_trans hfirst (Nat.min_le_left _ _), hover, hcauses⟩

/-- Settles O27. -/
theorem watermarkMovesAndSweeps : Obligations.WatermarkMovesAndSweeps := by
  refine ⟨fun s h => ?_, fun s => ⟨s.sweepList, rfl, sweepList_perm s, sweepList_ordered s⟩, fun forced x s => ?_,
    fun s => ?_⟩
  · intro taken
    refine ⟨fun m hentry => ?_, fun first last cause hentry => ?_⟩
    · intro moved
      have hmoved : advanceToMark m (finishEntry s) = moved := advanceToMark_eq m (finishEntry s)
      exact ⟨hmoved ▸ exec_markEntryComplete h hentry, sweep_openFlaws moved⟩
    · intro w blinded moved
      have hw : max blinded.map.w (min last blinded.travel.p) = w :=
        congr (congrArg (fun a p => max a (min last p)) (addSpan_map_w _ _ _ _)) (congrArg Travel.p (addSpan_travel _ _ _ _))
      have hmoved : advanceToGap last blinded = moved :=
        congrArg (fun w => { blinded with map := { blinded.map with w := w } }) hw
      have hopen := sweep_openFlaws moved
      have hflaws : moved.assembler = s.assembler := addSpan_assembler _ _ _ _
      have hconf : moved.conf = s.conf := addSpan_conf _ _ _ _
      rw [hflaws, hconf] at hopen
      exact ⟨hmoved ▸ exec_gapEntryComplete h hentry, hopen, fun hahead hlast => addSpan_covers (s := taken) hahead hlast⟩
  · intro f c up counted freed
    exact ⟨closeFlaw_border, fun j hj => ⟨closeFlaw_released hj, closeFlaw_mapped hj⟩⟩
  · exact ⟨fun a harmed hready => Recipes.promotionTest_of_passes harmed hready, Recipes.promotionTest_of_waits⟩

end Sys2Proof.Proofs.Sweeping
end

section
/-!
A DETECTION entry completes: it opens a flaw, joins one, or makes one of several (section 4.3).
-/

namespace Sys2Proof.Proofs.Assembling

open Sys2Proof Sys2Proof.Machine Sys2Proof.Proofs.Judging Sys2Proof.Proofs.Sweeping Sys2Proof.Proofs.Least

/-! ## The detection taken -/

theorem joinTest_iff (conf : Conf) (d : Detection) (f : OpenFlaw) :
    joinTest conf d f = true ↔
      d.row ≤ f.lastRow + conf.gapTol ∧ f.firstRow ≤ d.row + d.band - 1 + conf.gapTol ∧
        d.xStart ≤ f.xMax + conf.joinTol ∧ f.xMin ≤ d.xStart + d.width + conf.joinTol := by
  unfold joinTest Detection.lastRow
  simp only [Bool.and_eq_true, decide_eq_true_eq, and_assoc]

theorem detectionBegun_late (s : State) :
    detectionBegun s true = raise .late ((finishEntry s).count fun c => { c with late := bump c.late }) := rfl

theorem detectionBegun_frame (s : State) (late : Bool) :
    { detectionBegun s late with intake := s.intake, accounts := s.accounts, links := s.links } = s := by
  cases late <;> rfl

section
variable (s : State) (late : Bool)

theorem detectionBegun_assembler : (detectionBegun s late).assembler = s.assembler :=
  (congrArg State.assembler (detectionBegun_frame s late) :)

theorem detectionBegun_conf : (detectionBegun s late).conf = s.conf :=
  (congrArg State.conf (detectionBegun_frame s late) :)

theorem detectionBegun_map : (detectionBegun s late).map = s.map :=
  (congrArg State.map (detectionBegun_frame s late) :)

theorem detectionBegun_recipes : (detectionBegun s late).recipes = s.recipes :=
  (congrArg State.recipes (detectionBegun_frame s late) :)

end

section
variable {d : Detection} {s : State}

/-- A late detection behind E_closed is discarded (R60). -/
theorem completeDetection_discarded (hlate : d.row < s.map.w) (hbehind : d.lastRow < s.map.eClosed) :
    completeDetection d s = raise .late (s.count fun c => { c with lateDropped := bump c.lateDropped }) :=
  (if_pos hlate).trans (if_pos hbehind)

/-- Any other late detection is assembled, and its flaw closed when the watermark has passed it (R60, R61). -/
theorem completeDetection_late (hlate : d.row < s.map.w) (hahead : s.map.eClosed ≤ d.lastRow) :
    completeDetection d s =
      let r := assemble (measure s.refs d) true (raise .late (s.count fun c => { c with late := bump c.late }))
      if r.1.passed r.2.flaw then closeFlaw false r.2 r.1 else r.1 :=
  (if_pos hlate).trans (if_neg (Nat.not_lt.mpr hahead))

theorem completeDetection_on_time (htime : s.map.w ≤ d.row) :
    completeDetection d s = (assemble (measure s.refs d) false s).1 := if_neg (Nat.not_lt.mpr htime)

end

/-- The assembler's completion of a detection that is not discarded. -/
theorem completeDetection_kept {d : Detection} {s : State} {late : Bool} (hlate : late = decide (d.row < s.map.w))
    (hkept : late = true → s.map.eClosed ≤ d.lastRow) :
    let r := assemble (measure s.refs d) late (detectionBegun s late)
    completeDetection d (finishEntry s) = closedIfPassed late r.2.slot r.2.flaw r.1 := by
  intro r
  cases late with
  | true =>
    have hrow : d.row < s.map.w := of_decide_eq_true hlate.symm
    refine (completeDetection_late (s := finishEntry s) hrow (hkept rfl)).trans ?_
    show (if r.1.passed r.2.flaw = true then closeFlaw false r.2 r.1 else r.1) = _
    simp only [State.passed, closedIfPassed, decide_eq_true_eq, true_and]
  | false =>
    have hrow : ¬d.row < s.map.w := of_decide_eq_false hlate.symm
    exact completeDetection_on_time (s := finishEntry s) (Nat.not_lt.mp hrow)

theorem exec_detectionEntryComplete {s : State} (h : Working s) {d : Detection}
    (hentry : s.intake.inProcess = some (.detection d)) :
    exec .detectionEntryComplete s = .next (completeDetection d (finishEntry s)) := by
  have hcompletion : detectionCompletion s = completeDetection d (finishEntry s) := by
    simp only [detectionCompletion, hentry]
  have hframe := completeDetection_frame d (finishEntry s)
  rw [← hcompletion] at hframe ⊢
  exact blockStep_changes h (congrArg (fun u : State => u.dispatcher.cuts) hframe :)
    (congrArg (fun u : State => u.dispatcher.routing) hframe :) (congrArg (fun u : State => u.production.orders) hframe :)
    (congrArg State.mode hframe :)

/-! ## The slots of a new flaw (R65) -/

theorem freeSlot_of_lowest {t : FlawTable} {i : Fin 32} (hfree : t.slots[i] = none)
    (hbelow : ∀ j : Fin 32, j < i → t.slots[j] ≠ none) : t.freeSlot = some i := by
  unfold FlawTable.freeSlot
  rw [List.find?_eq_some_iff_getElem]
  refine ⟨by simp [hfree], i.val, by simp, by simp, fun j hj => ?_⟩
  have hslot := hbelow ⟨j, by omega⟩ hj
  simpa [Option.isSome_iff_ne_none] using hslot

theorem freeSlot_eq_none {t : FlawTable} (h : ∀ i : Fin 32, t.slots[i] ≠ none) : t.freeSlot = none :=
  List.find?_eq_none.mpr fun i _ => by simpa using h i

/-- A table with the assembly number that follows the one given out. -/
theorem assemble_of_none {m : Measured} {late : Bool} {s : State}
    (h : (s.assembler.openFlaws.filter fun x => joinTest s.conf m.d x.flaw) = []) :
    assemble m late s =
      ({ (openNew m late s).1 with
          assembler :=
            { (openNew m late s).1.assembler with assembly := nextAssembly (openNew m late s).1.assembler.assembly } },
        (openNew m late s).2) := by
  simp only [assemble, h]

theorem assemble_of_some {m : Measured} {late : Bool} {s : State} {x : Slotted} {xs : List Slotted}
    (h : (s.assembler.openFlaws.filter fun x => joinTest s.conf m.d x.flaw) = x :: xs) :
    assemble m late s =
      ({ (joinMatched m late x xs s).1 with
          assembler :=
            { (joinMatched m late x xs s).1.assembler with
              assembly := nextAssembly (joinMatched m late x xs s).1.assembler.assembly } },
        (joinMatched m late x xs s).2) := by
  simp only [assemble, h]

theorem openNew_of_free {m : Measured} {late : Bool} {s : State} {i : Fin 32} (h : s.assembler.freeSlot = some i) :
    openNew m late s =
      ({ s with assembler := s.assembler.put i (openFlaw m s.assembler.assembly late) },
        ⟨i, openFlaw m s.assembler.assembly late⟩) := by
  simp only [openNew, h]

theorem openNew_of_full {m : Measured} {late : Bool} {s : State} {x : Slotted} {xs : List Slotted}
    (hfull : s.assembler.freeSlot = none) (hopen : s.assembler.openFlaws = x :: xs) :
    openNew m late s =
      let forced := earliestEnding x xs
      let s' := forceClose forced s
      ({ s' with assembler := s'.assembler.put forced.slot (openFlaw m s.assembler.assembly late) },
        ⟨forced.slot, openFlaw m s.assembler.assembly late⟩) := by
  simp only [openNew, hfull, hopen]

/-! ## The flaw that several become (R63, R64) -/

/-- The flaw that one flaw and those merged into it make. -/
def mergedFlaw (f : OpenFlaw) (others : List Slotted) : OpenFlaw := others.foldl (fun f y => f.merge y.flaw) f

theorem mergedFlaw_cons (f : OpenFlaw) (y : Slotted) (ys : List Slotted) :
    mergedFlaw f (y :: ys) = mergedFlaw (f.merge y.flaw) ys := rfl

theorem merge_contrast (f g : OpenFlaw) : (f.merge g).contrast = max f.contrast g.contrast := by
  simp only [OpenFlaw.merge, Bool.or_eq_true, Bool.and_eq_true, decide_eq_true_eq, beq_iff_eq]
  split <;> omega

theorem join_contrast (m : Measured) (stamp : Nat) (late : Bool) (f : OpenFlaw) :
    (f.join m stamp late).contrast = max f.contrast m.contrast := by
  simp only [OpenFlaw.join]
  split <;> omega

section
variable {α : Type} {op : α → α → α} {field : OpenFlaw → α}

theorem field_mergedFlaw (hcomm : ∀ a b, op a b = op b a) (hassoc : ∀ a b c, op (op a b) c = op a (op b c))
    (hmerge : ∀ f g : OpenFlaw, field (f.merge g) = op (field f) (field g)) (others : List Slotted) :
    ∀ (f : OpenFlaw) (c : α),
      op (field (mergedFlaw f others)) c = others.foldl (fun n z => op n (field z.flaw)) (op c (field f)) := by
  induction others with
  | nil => exact fun f c => hcomm _ _
  | cons y ys ih =>
    intro f c
    rw [mergedFlaw_cons, ih, hmerge, ← hassoc]
    rfl

/-- A field that merges by a commutative and associative operation takes in that field of every flaw, in any order. -/
theorem field_mergedFlaw_of_perm (hcomm : ∀ a b, op a b = op b a) (hassoc : ∀ a b c, op (op a b) c = op a (op b c))
    (hmerge : ∀ f g : OpenFlaw, field (f.merge g) = op (field f) (field g)) {matching others : List Slotted}
    {kept : Slotted} (hperm : matching.Perm (kept :: others)) (c : α) :
    op (field (mergedFlaw kept.flaw others)) c = matching.foldl (fun n z => op n (field z.flaw)) c := by
  have hright : ∀ z₁ ∈ matching, ∀ z₂ ∈ matching, ∀ n : α,
      op (op n (field z₁.flaw)) (field z₂.flaw) = op (op n (field z₂.flaw)) (field z₁.flaw) := by
    intro z₁ _ z₂ _ n
    rw [hassoc, hcomm (field z₁.flaw), ← hassoc]
  rw [field_mergedFlaw hcomm hassoc hmerge, hperm.foldl_eq' hright, List.foldl_cons]

end

theorem foldl_or_any (g : Slotted → Bool) (xs : List Slotted) :
    ∀ c : Bool, xs.foldl (fun b z => b || g z) c = (xs.any g || c) := by
  induction xs with
  | nil => exact fun _ => rfl
  | cons x xs ih => intro c; rw [List.foldl_cons, ih, List.any_cons]; cases g x <;> cases c <;> simp

/-- A mark that merging keeps is carried when any of the flaws carries it. -/
theorem mark_mergedFlaw {field : OpenFlaw → Bool} (hmerge : ∀ f g : OpenFlaw, field (f.merge g) = (field f || field g))
    {matching others : List Slotted} {kept : Slotted} (hperm : matching.Perm (kept :: others)) (c : Bool) :
    (field (mergedFlaw kept.flaw others) || c) = ((matching.any fun z => field z.flaw) || c) :=
  (field_mergedFlaw_of_perm Bool.or_comm Bool.or_assoc hmerge hperm c).trans (foldl_or_any _ matching c)

theorem foldl_saturating (xs : List Slotted) :
    ∀ c : Nat, min 65535 (xs.foldl (fun n z => min 65535 (n + z.flaw.area)) c) =
      min 65535 ((xs.map fun z => z.flaw.area).sum + c) := by
  induction xs with
  | nil => exact fun c => by simp
  | cons x xs ih => intro c; rw [List.foldl_cons, ih, List.map_cons, List.sum_cons]; omega

theorem area_mergedFlaw {matching others : List Slotted} {kept : Slotted} (hperm : matching.Perm (kept :: others))
    (c : Nat) :
    min 65535 ((mergedFlaw kept.flaw others).area + c) = min 65535 ((matching.map fun z => z.flaw.area).sum + c) := by
  have hfold := field_mergedFlaw_of_perm (op := fun a b => min 65535 (a + b)) (field := OpenFlaw.area)
    (fun a b => by rw [Nat.add_comm]) (fun a b c => by omega) (fun _ _ => rfl) hperm c
  rw [← foldl_saturating, ← hfold]
  omega

/-! ## The kind of the flaw that several become -/

/-- A flaw's kind is at least as well founded as another's: it has the higher contrast, or at equal contrast the smaller
stamp. -/
def Outranks (f g : OpenFlaw) : Prop := g.contrast < f.contrast ∨ (g.contrast = f.contrast ∧ f.stamp ≤ g.stamp)

/-- Two flaws have their kind from one detection. -/
def SameKind (f g : OpenFlaw) : Prop := f.contrast = g.contrast ∧ f.kind = g.kind ∧ f.stamp = g.stamp

theorem SameKind.outranks {f g v : OpenFlaw} (h : SameKind f g) : Outranks f v ↔ Outranks g v := by
  obtain ⟨hcontrast, -, hstamp⟩ := h
  unfold Outranks
  rw [hcontrast, hstamp]

theorem SameKind.outranked {f g v : OpenFlaw} (h : SameKind f g) : Outranks v f ↔ Outranks v g := by
  obtain ⟨hcontrast, -, hstamp⟩ := h
  unfold Outranks
  rw [hcontrast, hstamp]

theorem Outranks.trans {f g v : OpenFlaw} (hfg : Outranks f g) (hgv : Outranks g v) : Outranks f v := by
  unfold Outranks at hfg hgv ⊢
  omega

theorem Outranks.refl (f : OpenFlaw) : Outranks f f := .inr ⟨rfl, Nat.le_refl _⟩

/-- A merged flaw has its kind from the one of the two that outranks the other. -/
theorem merge_sameKind (f g : OpenFlaw) :
    (SameKind (f.merge g) g ∧ Outranks g f) ∨ (SameKind (f.merge g) f ∧ Outranks f g) := by
  by_cases hgives : f.contrast < g.contrast ∨ (f.contrast = g.contrast ∧ g.stamp < f.stamp)
  · left
    refine ⟨by simp [SameKind, OpenFlaw.merge, hgives], ?_⟩
    unfold Outranks
    omega
  · right
    refine ⟨by simp [SameKind, OpenFlaw.merge, hgives], ?_⟩
    unfold Outranks
    omega

theorem SameKind.trans {f g h : OpenFlaw} (hfg : SameKind f g) (hgh : SameKind g h) : SameKind f h :=
  ⟨hfg.1.trans hgh.1, hfg.2.1.trans hgh.2.1, hfg.2.2.trans hgh.2.2⟩

/-- The flaw made of several has its kind from one that outranks all of them. -/
theorem mergedFlaw_sameKind (others : List Slotted) :
    ∀ f : OpenFlaw, ∃ g ∈ f :: others.map Slotted.flaw, SameKind (mergedFlaw f others) g ∧
      ∀ v ∈ f :: others.map Slotted.flaw, Outranks g v := by
  induction others with
  | nil => exact fun f => ⟨f, List.mem_cons_self, ⟨rfl, rfl, rfl⟩, fun v hv => by simp_all [Outranks.refl]⟩
  | cons y ys ih =>
    intro f
    obtain ⟨g, hfrom, hsame, hall⟩ := ih (f.merge y.flaw)
    have hmerged : Outranks g (f.merge y.flaw) := hall _ List.mem_cons_self
    have hrest : ∀ v ∈ ys.map Slotted.flaw, Outranks g v := fun v hv => hall v (List.mem_cons_of_mem _ hv)
    obtain ⟨giver, hgiver, hkind, hpair⟩ : ∃ giver, giver ∈ [f, y.flaw] ∧ SameKind (f.merge y.flaw) giver ∧
        Outranks giver f ∧ Outranks giver y.flaw := by
      rcases merge_sameKind f y.flaw with ⟨hy, hover⟩ | ⟨hf, hover⟩
      · exact ⟨y.flaw, by simp, hy, hover, .refl _⟩
      · exact ⟨f, by simp, hf, .refl _, hover⟩
    have hover : Outranks g giver := hkind.outranked.mp hmerged
    have hevery : ∀ v ∈ f :: (y :: ys).map Slotted.flaw, Outranks g v := by
      simp only [List.map_cons, List.mem_cons, forall_eq_or_imp]
      exact ⟨hover.trans hpair.1, hover.trans hpair.2, hrest⟩
    rcases List.mem_cons.mp hfrom with rfl | hg
    · exact ⟨giver, List.mem_append_left (ys.map Slotted.flaw) hgiver, hsame.trans hkind,
        fun v hv => hkind.outranks.mp (hevery v hv)⟩
    · exact ⟨g, List.mem_cons_of_mem _ (List.mem_cons_of_mem _ hg), hsame, hevery⟩

/-- Of several flaws, one that outranks all of them gives the kind of the flaw made of them. -/
theorem mergedFlaw_sameKind_of_perm {matching others : List Slotted} {kept : Slotted}
    (hperm : matching.Perm (kept :: others)) :
    ∃ z ∈ matching, SameKind (mergedFlaw kept.flaw others) z.flaw ∧ ∀ v ∈ matching, Outranks z.flaw v.flaw := by
  obtain ⟨g, hfrom, hsame, hall⟩ := mergedFlaw_sameKind others kept.flaw
  have hflaws : (matching.map Slotted.flaw).Perm (kept.flaw :: others.map Slotted.flaw) := hperm.map Slotted.flaw
  obtain ⟨z, hz, rfl⟩ := List.mem_map.mp (hflaws.mem_iff.mpr hfrom)
  exact ⟨z, hz, hsame, fun v hv => hall _ (hflaws.mem_iff.mp (List.mem_map_of_mem hv))⟩

/-! ## The flaw kept, and the flaws merged into it -/

section
variable {x : Slotted} {xs : List Slotted} (hslots : (x :: xs).Pairwise fun y z => y.slot < z.slot)
include hslots

/-- The flaw kept has the smallest first_row, in the lowest slot among equals (R64). -/
theorem leastBy_earliest (key : Slotted → Nat) {z : Slotted} (hz : z ∈ x :: xs) :
    key (leastBy key x xs) < key z ∨ (key (leastBy key x xs) = key z ∧ (leastBy key x xs).slot ≤ z.slot) := by
  obtain ⟨before, after, hsplit, hbefore, hafter⟩ := leastBy_splits key x xs
  rw [hsplit] at hslots hz
  have hlater : ∀ y ∈ after, (leastBy key x xs).slot < y.slot :=
    (List.pairwise_cons.mp (List.pairwise_append.mp hslots).2.1).1
  rcases List.mem_append.mp hz with hz | hz
  · exact .inl (hbefore z hz)
  · rcases List.mem_cons.mp hz with rfl | hz
    · exact .inr ⟨rfl, Nat.le_refl _⟩
    · exact (Nat.lt_or_eq_of_le (hafter z hz)).imp_right fun heq => ⟨heq, Nat.le_of_lt (hlater z hz)⟩

/-- Of flaws in different slots, one and those in the other slots are all. -/
theorem perm_kept_others {kept : Slotted} (hkept : kept ∈ x :: xs) :
    (x :: xs).Perm (kept :: (x :: xs).filter fun y => y.slot != kept.slot) := by
  obtain ⟨before, after, hsplit⟩ := List.append_of_mem hkept
  rw [hsplit] at hslots ⊢
  obtain ⟨-, hrest, hcross⟩ := List.pairwise_append.mp hslots
  have hbefore : before.filter (fun y => y.slot != kept.slot) = before := List.filter_eq_self.mpr fun y hy => by
    simpa using Fin.ne_of_lt (hcross y hy kept List.mem_cons_self)
  have hafter : after.filter (fun y => y.slot != kept.slot) = after := List.filter_eq_self.mpr fun y hy => by
    simpa using (Fin.ne_of_lt ((List.pairwise_cons.mp hrest).1 y hy)).symm
  have hself : ¬(kept.slot != kept.slot) = true := by simp
  rw [List.filter_append, hbefore, List.filter_cons, if_neg hself, hafter]
  exact List.perm_middle

end

/-! ## The detection completed -/

theorem freeAll_assembly (xs : List Slotted) :
    ∀ t : FlawTable, (xs.foldl (fun t y => t.free y.slot) t).assembly = t.assembly := by
  induction xs with
  | nil => exact fun _ => rfl
  | cons x xs ih => intro t; rw [List.foldl_cons, ih, free_assembly]

/-- A detection that is not discarded, with what the assembler makes of it. -/
theorem exec_assembled {s : State} (h : Working s) {d : Detection} (hentry : s.intake.inProcess = some (.detection d))
    {late : Bool} (hlate : late = decide (d.row < s.map.w)) (hkept : late = true → s.map.eClosed ≤ d.lastRow)
    {r : State × Slotted} (hr : assemble (measure s.refs d) late (detectionBegun s late) = r) :
    exec .detectionEntryComplete s = .next (closedIfPassed late r.2.slot r.2.flaw r.1) := by
  subst hr
  rw [exec_detectionEntryComplete h hentry, completeDetection_kept hlate hkept]

section
variable {m : Measured} {late : Bool} {s : State} {matching : List Slotted}
  (hmatching : (s.assembler.openFlaws.filter fun x => joinTest s.conf m.d x.flaw) = matching)
include hmatching

/-- The detection opens a flaw in a free slot (R65). -/
theorem assemble_opens (hnone : matching = []) {i : Fin 32} (hfree : s.assembler.freeSlot = some i) :
    assemble m late (detectionBegun s late) =
      ({ detectionBegun s late with
          assembler :=
            ⟨s.assembler.slots.set i (some (openFlaw m s.assembler.assembly late)), nextAssembly s.assembler.assembly⟩ },
        ⟨i, openFlaw m s.assembler.assembly late⟩) := by
  subst hnone
  rw [← detectionBegun_assembler s late, ← detectionBegun_conf s late] at hmatching
  rw [← detectionBegun_assembler s late] at hfree ⊢
  rw [assemble_of_none hmatching, openNew_of_free hfree]
  rfl

/-- The detection joins the flaws it matches (R63, R64). -/
theorem assemble_joins {x : Slotted} {xs : List Slotted} (hsome : matching = x :: xs) :
    let kept := leastBy (fun y => y.flaw.firstRow) x xs
    let others := (x :: xs).filter fun y => y.slot != kept.slot
    let f := (mergedFlaw kept.flaw others).join m s.assembler.assembly late
    assemble m late (detectionBegun s late) =
      ({ detectionBegun s late with
          assembler :=
            ⟨(others.foldl (fun t y => t.free y.slot) s.assembler).slots.set kept.slot (some f),
              nextAssembly s.assembler.assembly⟩ },
        ⟨kept.slot, f⟩) := by
  intro kept others f
  subst hsome
  rw [← detectionBegun_assembler s late, ← detectionBegun_conf s late] at hmatching
  rw [assemble_of_some hmatching]
  simp only [joinMatched, detectionBegun_assembler, FlawTable.put, freeAll_assembly]
  rfl

end

/-- The slots when the flaw kept and the others have become one. -/
theorem slots_joined (t : FlawTable) (matching : List Slotted) (kept : Slotted) (f : OpenFlaw) (i : Fin 32) :
    (((matching.filter fun y => y.slot != kept.slot).foldl (fun t y => t.free y.slot) t).slots.set kept.slot
        (some f))[i] =
      if i = kept.slot then some f else if matching.any (fun z => z.slot == i) then none else t.slots[i] := by
  refine (slots_put kept.slot i f _).trans ?_
  by_cases hi : i = kept.slot
  · rw [if_pos hi, if_pos hi.symm]
  · have hothers : ((matching.filter fun y => y.slot != kept.slot).any fun z => z.slot == i) =
        matching.any fun z => z.slot == i := by
      rw [List.any_filter]
      refine congrArg matching.any (funext fun z => ?_)
      by_cases hz : z.slot = i
      · simp [hz, hi]
      · simp [hz]
    rw [if_neg hi, if_neg (Ne.symm hi), slots_freeAll, hothers]

/-- Settles O25. -/
theorem detectionOpensOrJoinsAFlaw : Obligations.DetectionOpensOrJoinsAFlaw := by
  intro s d h hentry reference contrast unsettled number matching last late begun dropped
  have hmatching : (s.assembler.openFlaws.filter fun x => joinTest s.conf (measure s.refs d).d x.flaw) = matching := rfl
  refine ⟨joinTest_iff s.conf d, fun hlate hbehind => ?_, fun hkept => ⟨?_, ?_, ?_⟩⟩
  · rw [exec_detectionEntryComplete h hentry]
    exact congrArg _ (completeDetection_discarded (s := finishEntry s) (of_decide_eq_true hlate) hbehind)
  · intro hnone i hi hbelow f
    exact exec_assembled h hentry rfl hkept (assemble_opens hmatching hnone (freeSlot_of_lowest hi hbelow))
  · intro x hone g higher f
    have hothers : ([x].filter fun y => y.slot != x.slot) = [] := by simp
    have hjoined := assemble_joins (m := measure s.refs d) (late := late) hmatching hone
    simp only [show leastBy (fun y => y.flaw.firstRow) x [] = x from rfl, hothers] at hjoined
    exact exec_assembled h hentry rfl hkept hjoined
  · intro x y rest hmany
    let kept := leastBy (fun y => y.flaw.firstRow) x (y :: rest)
    let others := (x :: y :: rest).filter fun y => y.slot != kept.slot
    let merged := mergedFlaw kept.flaw others
    have hslots : (x :: y :: rest).Pairwise fun y z => y.slot < z.slot :=
      hmany ▸ (openFlaws_slots_lt s.assembler).filter _
    have hmem : kept ∈ x :: y :: rest := leastBy_mem _ x (y :: rest)
    have hperm : matching.Perm (kept :: others) := hmany ▸ perm_kept_others hslots hmem
    obtain ⟨z, hz, hsame, hbest⟩ := mergedFlaw_sameKind_of_perm hperm
    have hcontrast : merged.contrast = z.flaw.contrast := hsame.1
    refine ⟨kept, merged.join (measure s.refs d) s.assembler.assembly late, _, hmany ▸ hmem,
      exec_assembled h hentry rfl hkept (assemble_joins hmatching hmany), fun z hz => ?_, fun i => ?_,
      field_mergedFlaw_of_perm Nat.min_comm Nat.min_assoc (fun _ _ => rfl) hperm _,
      field_mergedFlaw_of_perm Nat.max_comm Nat.max_assoc (fun _ _ => rfl) hperm _,
      field_mergedFlaw_of_perm Nat.min_comm Nat.min_assoc (fun _ _ => rfl) hperm _,
      field_mergedFlaw_of_perm Nat.max_comm Nat.max_assoc (fun _ _ => rfl) hperm _,
      (join_contrast _ _ _ _).trans (field_mergedFlaw_of_perm Nat.max_comm Nat.max_assoc merge_contrast hperm _),
      area_mergedFlaw hperm _, mark_mergedFlaw (fun _ _ => rfl) hperm _, mark_mergedFlaw (fun _ _ => rfl) hperm _,
      mark_mergedFlaw (fun _ _ => rfl) hperm _, mark_mergedFlaw (fun _ _ => rfl) hperm _, fun hhigher => ?_,
      fun v hv hlower hunique => ?_⟩
    · exact leastBy_earliest hslots (fun y => y.flaw.firstRow) (hmany ▸ hz)
    · exact (slots_joined s.assembler (x :: y :: rest) kept _ i).trans (by rw [hmany])
    · have hgives : merged.contrast < contrast := hcontrast ▸ hhigher z hz
      exact ⟨if_pos hgives, if_pos hgives⟩
    · have hvz : v = z := by
        rcases hunique z hz with hzv | hless
        · exact hzv.symm
        · have hover := hbest v hv
          unfold Outranks at hover
          omega
      have hkeeps : ¬merged.contrast < contrast := by
        rw [hcontrast, ← hvz]
        exact Nat.not_lt.mpr hlower
      exact ⟨(if_neg hkeeps).trans (hvz ▸ hsame.2.1), (if_neg hkeeps).trans (hvz ▸ hsame.2.2)⟩

/-! ## A full table (R66) -/

/-- The forced close taken, as it is counted and raised before the flaw is closed. -/
def forcedCounted (s : State) : State := raise .forced (s.count fun c => { c with forcedCloses := bump c.forcedCloses })

theorem forceClose_eq (x : Slotted) (s : State) :
    forceClose x s =
      if x.flaw.xMax < s.conf.netZone.xl ∨ s.conf.netZone.xr < x.flaw.xMin then closeFlaw true x (forcedCounted s)
      else addSpan x.flaw.firstRow (x.flaw.lastRow + s.conf.gapTol) .forced (closeFlaw true x (forcedCounted s)) := by
  unfold forceClose
  by_cases hborder : x.flaw.xMax < s.conf.netZone.xl ∨ s.conf.netZone.xr < x.flaw.xMin
  · rw [if_pos hborder]
    exact if_pos ((isBorder_iff _ _).mpr hborder)
  · rw [if_neg hborder]
    exact if_neg fun h => hborder ((isBorder_iff _ _).mp h)

theorem forceClose_assembler (x : Slotted) (s : State) : (forceClose x s).assembler = s.assembler.free x.slot := by
  rw [forceClose_eq]
  split
  · exact closeFlaw_assembler true x (forcedCounted s)
  · rw [addSpan_assembler]
    exact closeFlaw_assembler true x (forcedCounted s)

/-- Of the open flaws, the one that ends first in the lowest slot among equals is the one that a full table gives up. -/
theorem earliestEnding_eq {t : FlawTable} {x y : Slotted} {ys : List Slotted} (hopen : t.openFlaws = y :: ys)
    (hx : x ∈ t.openFlaws)
    (hfirst : ∀ z ∈ t.openFlaws,
      x.flaw.lastRow < z.flaw.lastRow ∨ (x.flaw.lastRow = z.flaw.lastRow ∧ x.slot ≤ z.slot)) :
    earliestEnding y ys = x := by
  have hslots := openFlaws_slots_lt t
  rw [hopen] at hslots hx hfirst
  obtain ⟨before, after, hsplit⟩ := List.append_of_mem hx
  refine leastBy_of_split hsplit (fun z hz => ?_) fun z hz => ?_
  · have hlower : z.slot < x.slot := by
      rw [hsplit] at hslots
      exact (List.pairwise_append.mp hslots).2.2 z hz x List.mem_cons_self
    rcases hfirst z (hsplit ▸ List.mem_append_left _ hz) with hlast | ⟨-, hslot⟩
    · exact hlast
    · exact absurd hlower (Fin.not_lt.mpr hslot)
  · rcases hfirst z (hsplit ▸ List.mem_append_right _ (List.mem_cons_of_mem _ hz)) with hlast | ⟨hlast, -⟩
    · exact Nat.le_of_lt hlast
    · exact Nat.le_of_eq hlast

/-- The detection opens a flaw in the slot of the one that a full table gives up (R66). -/
theorem assemble_forces {m : Measured} {late : Bool} {s : State} {x : Slotted}
    (hmatching : (s.assembler.openFlaws.filter fun y => joinTest s.conf m.d y.flaw) = [])
    (hfull : ∀ i : Fin 32, s.assembler.slots[i] ≠ none) (hx : x ∈ s.assembler.openFlaws)
    (hfirst : ∀ y ∈ s.assembler.openFlaws,
      x.flaw.lastRow < y.flaw.lastRow ∨ (x.flaw.lastRow = y.flaw.lastRow ∧ x.slot ≤ y.slot)) :
    assemble m late s =
      ({ forceClose x s with
          assembler :=
            ⟨s.assembler.slots.set x.slot (some (openFlaw m s.assembler.assembly late)),
              nextAssembly s.assembler.assembly⟩ },
        ⟨x.slot, openFlaw m s.assembler.assembly late⟩) := by
  obtain ⟨y, ys, hopen⟩ := List.exists_cons_of_ne_nil (List.ne_nil_of_mem hx)
  rw [assemble_of_none hmatching, openNew_of_full (freeSlot_eq_none hfull) hopen, earliestEnding_eq hopen hx hfirst]
  simp only [forceClose_assembler, FlawTable.put, FlawTable.free, Vector.set_set]

/-- Settles O26. -/
theorem fullTableForcesAClose : Obligations.FullTableForcesAClose := by
  intro s d x h hentry hmatching hfull hx hfirst last late hkept zone begun closes counted closed blinded reference f number
  have hcounted : forcedCounted begun = counted := by
    have hcloses : begun.accounts.counts.forcedCloses = closes := by
      cases hlate : late <;> simp only [begun, hlate] <;> rfl
    show _ = { begun with accounts := _, links := _ }
    rw [← hcloses]
    rfl
  have hforced : forceClose x begun = blinded := by
    rw [forceClose_eq, hcounted, show begun.conf = s.conf from detectionBegun_conf s late]
  have hassembled : assemble (measure s.refs d) late begun =
      ({ blinded with assembler := ⟨s.assembler.slots.set x.slot (some f), number⟩ }, ⟨x.slot, f⟩) := by
    rw [← hforced]
    have hassembler : begun.assembler = s.assembler := detectionBegun_assembler s late
    have hconf : begun.conf = s.conf := detectionBegun_conf s late
    rw [← hassembler] at hfull hx hfirst hmatching ⊢
    rw [← hconf] at hmatching
    exact (assemble_forces hmatching hfull hx hfirst).trans (by rw [hassembler]; rfl)
  refine ⟨exec_assembled h hentry rfl hkept hassembled, fun j hj hahead => ?_⟩
  have hmap : counted.map = s.map := detectionBegun_map s late
  have hjudged : judge counted.conf.netZone counted.recipes x.flaw = some j := by
    rw [show counted.conf = s.conf from detectionBegun_conf s late,
      show counted.recipes = s.recipes from detectionBegun_recipes s late]
    exact hj
  refine ⟨recordOf x.flaw j true, counted.count (Counts.addFlaw x.flaw.kind j.cls), rfl, rfl, rfl, rfl, rfl, hmap, ?_⟩
  exact (congrArg State.map (closeFlaw_mapped (forced := true) hjudged (hmap ▸ hahead)) :)

end Sys2Proof.Proofs.Assembling
end

section
/-!
DONE, and the lost cuts (sections 8.4 and 8.5).
-/

namespace Sys2Proof.Proofs.Cuts

open Sys2Proof Sys2Proof.Machine Sys2Proof.Proofs.Frames Sys2Proof.Proofs.Blocks
  Sys2Proof.Proofs.Accepted

/-! ## What an accepted command leaves of the blocks -/

/-- An accepted command leaves the blocks as its act does; the flags of the level conditions that rise and the pending
response come to the links. -/
theorem command_next {s u : State} (h : Working s) {a : Acceptance} {l : Link} {b : Body} {r : Reply}
    (hr : a.refusal l b s.mode = none) {act : State → State × Reply}
    (hact : act (shiftOut l (b.data.length + 1) s) = (u, r)) :
    ∃ t, command a l b act s = .next t ∧ { t with links := u.links } = u ∧ (t.link l).pending = r.response a.code ∧
      t = setPending l (r.response a.code) (setRisenLevels (shiftOut l (b.data.length + 1) s) u) := by
  refine ⟨_, command_accepted h hr act, ?_, ?_, by rw [hact]⟩
  · rw [hact]
    exact setRisenLevels_frame _ u
  · rw [hact]
    cases l <;> rfl

/-! ## The checks of DONE (R141) -/

/-- DONE runs its checks on the cut its first data word names. -/
theorem exec_done {i : Instr} {b : Body} (hi : i ∈ [Instr.doneOk .cutter 0 b, .doneMissed .cutter b]) :
    ∃ o, ∀ s, exec i s = command (cutterEntry 0x21 2) .cutter b (doneSeq (valueAt b.data 0) o) s := by
  simp only [List.mem_cons, List.not_mem_nil, or_false] at hi
  rcases hi with rfl | rfl
  · exact ⟨.ok (signedWord (b.data.getD 1 0)), fun _ => rfl⟩
  · exact ⟨.missed, fun _ => rfl⟩

section
variable {seq : Nat} {o : CutOutcome} {s : State}

theorem doneSeq_gone (h : ∀ c ∈ s.dispatcher.cuts, c.seq ≠ seq) : doneSeq seq o s = (s, Reply.refused .gone) := by
  unfold doneSeq
  split
  next c rest hcuts =>
    rw [hcuts] at h
    have hrest : ¬(rest.any fun x => x.seq == seq) = true := by
      simpa using fun x hx => h x (List.mem_cons_of_mem c hx)
    rw [if_neg (h c List.mem_cons_self), if_neg hrest]
  next => rfl

theorem doneSeq_behind {c : Cut} {rest : List Cut} (hcuts : s.dispatcher.cuts = c :: rest) (hother : c.seq ≠ seq)
    (hlater : ∃ x ∈ rest, x.seq = seq) : doneSeq seq o s = (s, Reply.refused .seq) := by
  have hany : (rest.any fun x => x.seq == seq) = true := by simpa using hlater
  simp only [doneSeq, hcuts]
  rw [if_neg hother, if_pos hany]

theorem doneSeq_queued {c : Cut} {rest : List Cut} (hcuts : s.dispatcher.cuts = c :: rest) (hseq : c.seq = seq)
    (hstate : c.state = .queued) : doneSeq seq o s = (s, Reply.refused .seq) := by
  simp only [doneSeq, hcuts]
  rw [if_pos hseq, if_neg (by simp [hstate])]

theorem doneSeq_head {c : Cut} {rest : List Cut} (hcuts : s.dispatcher.cuts = c :: rest) (hseq : c.seq = seq)
    (hstate : c.state = .issued) : doneSeq seq o s = doneHead c rest o s := by
  simp only [doneSeq, hcuts]
  rw [if_pos hseq, if_pos hstate]

theorem doneHead_busy {c : Cut} {rest : List Cut} (h : 4 ≤ s.grader.queue.length) :
    doneHead c rest o s = (s, Reply.refused .busy) := if_pos (decide_eq_true h)

theorem grader_not_full (h : s.grader.queue.length < 4) : ¬s.grader.full = true :=
  fun hfull => Nat.not_le.mpr h (of_decide_eq_true hfull)

theorem doneHead_missed {c : Cut} {rest : List Cut} (h : s.grader.queue.length < 4) :
    doneHead c rest .missed s = (missHead c rest s, Reply.done [0, 0, 0]) := if_neg (grader_not_full h)

theorem doneHead_ok {c : Cut} {rest : List Cut} {dev : Int} (h : s.grader.queue.length < 4) :
    doneHead c rest (.ok dev) s = doneHeadOk c rest dev s := if_neg (grader_not_full h)

end

/-- Settles O38. -/
theorem doneChecksItsCut : Obligations.DoneChecksItsCut := by
  intro s arg b h hwords seq
  refine ⟨fun harg => ?_, fun i hi => ?_⟩
  · have hundefined : outcomeOf arg b.data = none := by
      unfold outcomeOf
      rw [if_neg (by rintro rfl; exact absurd harg (by decide)), if_neg (by rintro rfl; exact absurd harg (by decide))]
    refine command_answer h (passes_cutter hwords) ?_
    unfold doneCut
    rw [hundefined]
  · obtain ⟨o, hexec⟩ := exec_done hi
    rw [hexec]
    have hpasses : (cutterEntry 0x21 2).refusal .cutter b s.mode = none := passes_cutter hwords
    refine ⟨fun hgone => ?_, fun c rest hcuts hother hlater => ?_, fun c rest hcuts hseq hstate => ?_,
      fun c rest hcuts hseq hstate hfull => ?_⟩
    · exact command_answer h hpasses (doneSeq_gone (s := shiftOut .cutter (b.data.length + 1) s) hgone)
    · exact command_answer h hpasses (doneSeq_behind (s := shiftOut .cutter (b.data.length + 1) s) hcuts hother hlater)
    · exact command_answer h hpasses (doneSeq_queued (s := shiftOut .cutter (b.data.length + 1) s) hcuts hseq hstate)
    · exact command_answer h hpasses
        ((doneSeq_head (s := shiftOut .cutter (b.data.length + 1) s) hcuts hseq hstate).trans (doneHead_busy hfull))

/-! ## Folded rows, whatever part they are read in -/

theorem rowFolded_congr {c : Cut} {s u t : State} (h : RowFolded c s u) (hplanner : t.planner = u.planner)
    (hproduction : t.production = u.production) : RowFolded c s t := by
  unfold RowFolded at h ⊢
  rw [hplanner, hproduction]
  exact h

/-! ## DONE with outcome OK (R143) -/

theorem formPiece_keepsRow_iff (d : Dispatcher) (c : Cut) (a : Nat) :
    (formPiece d c a).keepsRow = true ↔ ∃ l, d.aLast = some l ∧ d.merged = none ∧ l < a := by
  unfold formPiece
  cases hlast : d.aLast with
  | none =>
    simp only [reduceCtorEq, false_and, exists_false, iff_false]
    split <;> simp
  | some l =>
    cases hmerged : d.merged with
    | some m => simp
    | none =>
      simp only [Option.some.injEq, true_and, exists_eq_left']
      split
      next hle => simp [Nat.not_lt.mpr hle]
      next hle => simp [Nat.lt_of_not_le hle]

/-- A piece with a known start, no merged-piece record and an end beyond its start is the one the cut was laid for. -/
theorem formPiece_plain {d : Dispatcher} {c : Cut} {a l : Nat} (hlast : d.aLast = some l) (hmerged : d.merged = none)
    (hbeyond : l < a) : formPiece d c a = ⟨c.kind, some l, true⟩ := by
  simp only [formPiece, hlast, hmerged]
  exact if_neg (Nat.not_le.mpr hbeyond)

theorem formPiece_behind {d : Dispatcher} {c : Cut} {a l : Nat} (hlast : d.aLast = some l) (hmerged : d.merged = none)
    (hbehind : a ≤ l) : formPiece d c a = ⟨.merged, some l, false⟩ := by
  simp only [formPiece, hlast, hmerged]
  exact if_pos hbehind

theorem formPiece_merged {d : Dispatcher} {c : Cut} {a l : Nat} {m : Merged} (hlast : d.aLast = some l)
    (hmerged : d.merged = some m) : formPiece d c a = ⟨.merged, m.start, false⟩ := by
  simp only [formPiece, hlast, hmerged]

theorem formPiece_head {d : Dispatcher} {c : Cut} {a : Nat} (hlast : d.aLast = none) (hkind : c.kind = .head) :
    formPiece d c a = ⟨.head, none, false⟩ := by
  simp only [formPiece, hlast]
  exact if_pos hkind

theorem formPiece_first {d : Dispatcher} {c : Cut} {a : Nat} (hlast : d.aLast = none) (hkind : c.kind ≠ .head) :
    formPiece d c a = ⟨.head, some d.headPos, false⟩ := by
  simp only [formPiece, hlast]
  exact if_neg hkind

theorem executeHead_dispatcher_eq (c : Cut) (rest : List Cut) (a : Nat) (s : State) :
    (executeHead c rest a s).dispatcher = { s.dispatcher with cuts := rest, aLast := some a, merged := none } := by
  simp only [executeHead, rearmExpiry_dispatcher]
  split
  · rfl
  · exact (congrArg (fun d : Dispatcher => { d with cuts := rest, aLast := some a, merged := none })
      (foldCutRow_dispatcher c s) :)

theorem executeHead_follows (c : Cut) (rest : List Cut) (a : Nat) (s : State) :
    ExpiryFollowsHead s.travel.expiryRaised (executeHead c rest a s) := by
  obtain ⟨u, hframe, heq, -⟩ := executeHead_eq c rest a s
  rw [heq, ← (congrArg State.travel hframe :)]
  exact rearmExpiry_follows u

/-- The row of a plain piece is kept, with its order plates. -/
theorem executeHead_keeps {c : Cut} {rest : List Cut} {a : Nat} {s : State}
    (h : (formPiece s.dispatcher c a).keepsRow = true) :
    (executeHead c rest a s).planner = s.planner ∧ (executeHead c rest a s).production = s.production := by
  simp only [executeHead, rearmExpiry_planner, rearmExpiry_production, if_pos h, and_self]

/-- The row of any other piece is folded. -/
theorem executeHead_folds {c : Cut} {rest : List Cut} {a : Nat} {s : State}
    (h : ¬(formPiece s.dispatcher c a).keepsRow = true) : RowFolded c s (executeHead c rest a s) := by
  refine rowFolded_congr (foldCutRow_folded c s) ?_ ?_
  · simp only [executeHead, rearmExpiry_planner, if_neg h]
  · simp only [executeHead, rearmExpiry_production, if_neg h]

theorem positionAdjusted_iff (tDev target : Nat) (dev : Int) :
    positionAdjusted tDev target dev = true ↔
      ¬(clampDeviation tDev dev = dev ∧ 0 ≤ (target : Int) + clampDeviation tDev dev) := by
  unfold positionAdjusted
  rw [Bool.or_eq_true, bne_iff_ne, decide_eq_true_eq, ← Int.not_le, Decidable.not_and_iff_not_or_not]

theorem doneHeadOk_eq {c : Cut} {rest : List Cut} {dev : Int} {s : State} {a : Nat}
    (ha : actualPosition s.conf.tDev c.target dev = a) :
    ∃ r, doneHeadOk c rest dev s = (executeHead c rest a s, r) ∧
      r.response 0x21 =
        ⟨if clampDeviation s.conf.tDev dev = dev ∧ 0 ≤ (c.target : Int) + clampDeviation s.conf.tDev dev then 0x2100
          else 0x2150,
          words32 a ++ [word (formPiece s.dispatcher c a).kind.code]⟩ := by
  subst ha
  refine ⟨_, rfl, ?_⟩
  by_cases hplain : clampDeviation s.conf.tDev dev = dev ∧ 0 ≤ (c.target : Int) + clampDeviation s.conf.tDev dev
  · rw [if_pos hplain, if_neg fun h => (positionAdjusted_iff _ _ _).mp h hplain]
    exact congrArg (Response.mk · _) (by decide : statusWord 0x21 .done .none = 0x2100)
  · rw [if_neg hplain, if_pos ((positionAdjusted_iff _ _ _).mpr hplain)]
    exact congrArg (Response.mk · _) (by decide : statusWord 0x21 .adjusted .clamped = 0x2150)

/-- Settles O36. -/
theorem doneOkHandsOverThePiece : Obligations.DoneOkHandsOverThePiece := by
  intro s b c rest h hwords hcuts hstate hseq hqueue dev bounded a d plain
  let read := shiftOut .cutter (b.data.length + 1) s
  let f := formPiece d c a
  have ha : actualPosition s.conf.tDev c.target dev = a := by
    show ((c.target : Int) + bounded).toNat = (max 0 ((c.target : Int) + bounded)).toNat
    omega
  obtain ⟨r, hhead, hresponse⟩ := doneHeadOk_eq (s := read) (rest := rest) ha
  have hact : doneCut 0 b.data read = (executeHead c rest a read, r) :=
    ((doneSeq_head (s := read) hcuts hseq.symm hstate).trans (doneHead_ok hqueue)).trans hhead
  obtain ⟨t, hexec, hblocks, hpending, -⟩ := command_next h (passes_cutter hwords) hact
  have hframe := (congrArg
      (fun u : State =>
        { u with
          planner := s.planner, production := s.production, dispatcher := s.dispatcher, travel := s.travel
          grader := s.grader, links := s.links })
      hblocks).trans
    (congrArg (fun u : State => { u with links := s.links }) (executeHead_frame c rest a read))
  have hplanner : t.planner = (executeHead c rest a read).planner := (congrArg State.planner hblocks :)
  have hproduction : t.production = (executeHead c rest a read).production := (congrArg State.production hblocks :)
  have htravel : t.travel = (executeHead c rest a read).travel := (congrArg State.travel hblocks :)
  have hkeeps := formPiece_keepsRow_iff d c a
  refine ⟨t, f.kind, f.start, if f.keepsRow then c.row else none, if f.keepsRow then c.pattern else none, hexec, ?_, ?_,
    ?_, ?_, ?_, ?_, ?_, ?_, ?_, ?_, ?_⟩
  · exact (congrArg State.grader hblocks).trans (executeHead_grader c rest a read)
  · exact (congrArg State.dispatcher hblocks).trans (executeHead_dispatcher_eq c rest a read)
  · refine (executeHead_follows c rest a read).congr (congrArg (fun u : State => u.dispatcher.cuts) hblocks :) ?_ ?_
      (congrArg State.conf hblocks :) ?_ <;> rw [htravel]
  · exact hpending.trans hresponse
  · intro hlast hkind
    simp only [f, formPiece_head hlast hkind, and_self]
  · intro hlast hkind
    simp only [f, formPiece_first hlast hkind, and_self]
  · intro l m hlast hmerged
    simp only [f, formPiece_merged hlast hmerged, and_self]
  · intro l hlast hmerged hbehind
    simp only [f, formPiece_behind hlast hmerged hbehind, and_self]
  · intro l hlast hmerged hbeyond
    have hkept := executeHead_keeps (rest := rest) (s := read) (hkeeps.mpr ⟨l, hlast, hmerged, hbeyond⟩)
    rw [hplanner, hproduction, hkept.1, hkept.2]
    simp only [f, formPiece_plain hlast hmerged hbeyond, if_true, true_and]
    exact ⟨rfl, rfl⟩
  · intro hother
    have hnot : ¬f.keepsRow = true := fun hf => hother (hkeeps.mp hf)
    rw [if_neg hnot, if_neg hnot]
    exact ⟨rfl, rfl, rowFolded_congr (executeHead_folds (s := read) hnot) hplanner hproduction⟩
  · refine ⟨(congrArg State.map hframe :), (congrArg State.intake hframe :), (congrArg State.assembler hframe :),
      (congrArg State.recipes hframe :), (congrArg State.conf hframe :), (congrArg State.accounts hframe :), ?_,
      (congrArg State.mode hframe :)⟩
    rw [htravel]
    exact (congrArg Travel.p (executeHead_travel c rest a read) :)

/-! ## Lost cuts (R144 to R146) -/

/-- The row of a cut is in the row table. -/
def Folds (c : Cut) (s : State) : Prop :=
  ∃ id row, c.row = some id ∧ s.planner.rows.find? (fun r => r.id == id) = some row

/-- What a lost head leaves behind, whatever way it was lost: `raised` are the expiries that wait. -/
structure Lost (c : Cut) (rest : List Cut) (raised : List Nat) (s t : State) : Prop where
  cuts : t.dispatcher.cuts = rest
  aLast : t.dispatcher.aLast = s.dispatcher.aLast
  merged : Folds c s → t.dispatcher.merged =
    some ⟨(s.dispatcher.merged.getD ⟨s.dispatcher.aLast, 0⟩).start,
      bump (s.dispatcher.merged.getD ⟨s.dispatcher.aLast, 0⟩).count⟩
  made : ¬Folds c s → t.dispatcher.merged = some (s.dispatcher.merged.getD ⟨s.dispatcher.aLast, 0⟩)
  folded : RowFolded c s t
  follows : ExpiryFollowsHead raised t
  grader : t.grader = s.grader
  map : t.map = s.map
  p : t.travel.p = s.travel.p
  conf : t.conf = s.conf
  mode : t.mode = s.mode

theorem loseHead_lost (c : Cut) (rest : List Cut) (s : State) :
    Lost c rest s.travel.expiryRaised s (loseHead c rest s) := by
  obtain ⟨hfolds, hnot, hfolded, hfollows⟩ := loseHead_spec c rest s
  have hframe := loseHead_frame c rest s
  exact {
    cuts := loseHead_cuts c rest s
    aLast := (congrArg Dispatcher.aLast (loseHead_dispatcher c rest s) :)
    merged := fun h => (congrArg Dispatcher.merged (hfolds h) :)
    made := fun h => (congrArg Dispatcher.merged (hnot h) :)
    folded := hfolded
    follows := hfollows
    grader := (congrArg State.grader hframe :)
    map := (congrArg State.map hframe :)
    p := (congrArg Travel.p (loseHead_travel c rest s) :)
    conf := (congrArg State.conf hframe :)
    mode := (congrArg State.mode hframe :) }

/-- The counters of the dispatcher and of the shift, and the links, are no part of what a lost head leaves behind. -/
theorem Lost.congr {c : Cut} {rest : List Cut} {raised : List Nat} {s u t : State} (h : Lost c rest raised s u)
    (hdispatcher : ∃ missed expired, t.dispatcher = { u.dispatcher with missed := missed, expired := expired })
    (hblocks : { t with dispatcher := u.dispatcher, accounts := u.accounts, links := u.links } = u) :
    Lost c rest raised s t := by
  obtain ⟨missed, expired, hdispatcher⟩ := hdispatcher
  have htravel : t.travel = u.travel := (congrArg State.travel hblocks :)
  have hconf : t.conf = u.conf := (congrArg State.conf hblocks :)
  exact {
    cuts := by rw [hdispatcher]; exact h.cuts
    aLast := by rw [hdispatcher]; exact h.aLast
    merged := fun hfolds => by rw [hdispatcher]; exact h.merged hfolds
    made := fun hnot => by rw [hdispatcher]; exact h.made hnot
    folded := rowFolded_congr h.folded (congrArg State.planner hblocks :) (congrArg State.production hblocks :)
    follows := h.follows.congr (by rw [hdispatcher]) (by rw [htravel]) (by rw [htravel]) hconf (by rw [htravel])
    grader := (congrArg State.grader hblocks).trans h.grader
    map := (congrArg State.map hblocks).trans h.map
    p := by rw [htravel]; exact h.p
    conf := hconf.trans h.conf
    mode := (congrArg State.mode hblocks).trans h.mode }

theorem loseHead_accounts (c : Cut) (rest : List Cut) (s : State) : (loseHead c rest s).accounts = s.accounts :=
  (congrArg State.accounts (loseHead_frame c rest s) :)

theorem missHead_counts (c : Cut) (rest : List Cut) (s : State) :
    (missHead c rest s).dispatcher.missed = bump s.dispatcher.missed ∧
      (missHead c rest s).dispatcher.expired = s.dispatcher.expired ∧
      (missHead c rest s).accounts =
        { s.accounts with counts := { s.accounts.counts with missed := bump s.accounts.counts.missed } } := by
  have hdispatcher := loseHead_dispatcher c rest s
  refine ⟨congrArg bump (congrArg Dispatcher.missed hdispatcher :), (congrArg Dispatcher.expired hdispatcher :), ?_⟩
  rw [← loseHead_accounts c rest s]
  rfl

theorem expireHead_counts (c : Cut) (rest : List Cut) (s : State) :
    (expireHead c rest s).dispatcher.expired = bump s.dispatcher.expired ∧
      (expireHead c rest s).dispatcher.missed = s.dispatcher.missed ∧
      (expireHead c rest s).accounts =
        { s.accounts with counts := { s.accounts.counts with expired := bump s.accounts.counts.expired } } := by
  have hdispatcher := loseHead_dispatcher c rest s
  refine ⟨congrArg bump (congrArg Dispatcher.expired hdispatcher :), (congrArg Dispatcher.missed hdispatcher :), ?_⟩
  rw [← loseHead_accounts c rest s]
  rfl

/-- The flags of level conditions that rise are not the EXPIRED flag. -/
theorem setRisenLevels_expiredFlag (old new : State) :
    (setRisenLevels old new).links.cutter.flags &&& 2 = new.links.cutter.flags &&& 2 := by
  rw [setRisenLevels_links]
  have hrisen : ∀ (p : Prop) [Decidable p] (x : BitVec 8), x &&& 2 = 0 → (if p then x else 0) &&& 2 = 0 := by
    intro p _ x hx
    by_cases hp : p
    · rw [if_pos hp, hx]
    · rw [if_neg hp]; rfl
  simp only [BitVec.and_or_distrib_right, hrisen _ 1 (by decide), hrisen _ 8 (by decide)]
  exact BitVec.or_zero.trans BitVec.or_zero

/-! ## A row that is removed (R118) -/

theorem removeRow_first (id : Nat) (row : Row) (rest : List Row) (hid : row.id = id) :
    removeRow id (row :: rest) = rest.dropWhile Row.left := by
  have hfound : (row.id == id) = true := beq_iff_eq.mpr hid
  unfold removeRow
  rw [if_pos (by rw [List.any_cons, hfound]; rfl), updateFirst, if_pos hfound]
  exact List.dropWhile_cons_of_pos rfl

/-- A row behind a first row that stays is flagged. -/
theorem removeRow_behind {id : Nat} {first row : Row} {before : List Row} (after : List Row) (hid : row.id = id)
    (hstays : first.left = false) (hbefore : ∀ r ∈ first :: before, r.id ≠ id) :
    removeRow id (first :: before ++ row :: after) = first :: before ++ { row with left := true } :: after := by
  have hfound : (row.id == id) = true := beq_iff_eq.mpr hid
  have hany : ((first :: before ++ row :: after).any fun r => r.id == id) = true :=
    List.any_eq_true.mpr ⟨row, by simp, hfound⟩
  unfold removeRow
  rw [if_pos hany, updateFirst_append (found := fun r : Row => r.id == id) _ (by simpa using hbefore) hfound]
  exact List.dropWhile_cons_of_neg (by simp [hstays])

/-! ## The two ways to lose the head -/

/-- An expiry that names the head is the loss of that head. -/
theorem exec_expiry_of_head {s : State} (h : Working s) {c : Cut} {rest : List Cut} {later : List Nat}
    (hcuts : s.dispatcher.cuts = c :: rest) (hraised : s.travel.expiryRaised = c.seq :: later) :
    exec .expiry s =
      .next
        (setRisenLevels s (expireHead c rest { s with travel := { s.travel with expiryRaised := later } })) := by
  have hreceived : receiveExpiry s = expireHead c rest { s with travel := { s.travel with expiryRaised := later } } := by
    simp only [receiveExpiry, hraised, hcuts, if_true]
  show blockStep receiveExpiry s = _
  rw [blockStep_of_working h, hreceived]

theorem missHead_lost (c : Cut) (rest : List Cut) (s : State) :
    Lost c rest s.travel.expiryRaised s (missHead c rest s) :=
  (loseHead_lost c rest s).congr ⟨_, _, rfl⟩ rfl

theorem expireHead_lost (c : Cut) (rest : List Cut) (s : State) :
    Lost c rest s.travel.expiryRaised s (expireHead c rest s) :=
  (loseHead_lost c rest s).congr ⟨_, _, rfl⟩ rfl

theorem Lost.of_links {c : Cut} {rest : List Cut} {raised : List Nat} {s u t : State} (h : Lost c rest raised s u)
    (hlinks : { t with links := u.links } = u) : Lost c rest raised s t :=
  h.congr ⟨_, _, (congrArg State.dispatcher hlinks :)⟩
    (congrArg (fun v : State => { v with dispatcher := u.dispatcher, accounts := u.accounts, links := u.links }) hlinks :)

/-- A lost head is read in the part before the expiry was received and the transfer shifted out. -/
theorem Lost.unread {c : Cut} {rest : List Cut} {raised waiting : List Nat} {links : Links} {s t : State}
    (h : Lost c rest raised { s with links := links, travel := { s.travel with expiryRaised := waiting } } t) :
    Lost c rest raised s t :=
  ⟨h.cuts, h.aLast, h.merged, h.made, h.folded, h.follows, h.grader, h.map, h.p, h.conf, h.mode⟩

/-- Settles O37. -/
theorem lostCutIsFolded : Obligations.LostCutIsFolded := by
  refine ⟨fun s c rest h hcuts => ?_, fun id row hid => ⟨fun rest => removeRow_first id row rest hid,
    fun first before after hstays hbefore => removeRow_behind after hid hstays hbefore⟩⟩
  intro d up counts record folds lost
  have hlost : ∀ {raised : List Nat} {t : State}, Lost c rest raised s t → lost raised t := fun hl =>
    ⟨hl.cuts, hl.aLast, hl.merged, hl.made, hl.folded, hl.follows, hl.grader, hl.map, hl.p, hl.conf, hl.mode⟩
  refine ⟨fun b hwords hseq hstate hqueue => ?_, fun later hraised => ?_⟩
  · let read := shiftOut .cutter (b.data.length + 1) s
    have hact : doneCut 1 b.data read = (missHead c rest read, Reply.done [0, 0, 0]) :=
      (doneSeq_head (s := read) hcuts hseq.symm hstate).trans (doneHead_missed hqueue)
    obtain ⟨t, hexec, hblocks, hpending, ht⟩ := command_next h (passes_cutter hwords) hact
    obtain ⟨hmissed, hexpired, haccounts⟩ := missHead_counts c rest read
    refine ⟨t, hexec, hlost ((missHead_lost c rest read).of_links hblocks).unread, ?_, ?_, ?_, ?_, ?_⟩
    · exact (congrArg (fun u : State => u.dispatcher.missed) hblocks).trans hmissed
    · exact (congrArg (fun u : State => u.dispatcher.expired) hblocks).trans hexpired
    · exact (congrArg State.accounts hblocks).trans haccounts
    · exact hpending.trans (congrArg (Response.mk · _) (by decide : statusWord 0x21 .done .none = 0x2100))
    · rw [ht]
      exact (setRisenLevels_expiredFlag _ _).trans
        (congrArg (fun u : State => u.links.cutter.flags &&& 2) (missHead_frame c rest read) :)
  · let read : State := { s with travel := { s.travel with expiryRaised := later } }
    have hblocks := setRisenLevels_frame s (expireHead c rest read)
    obtain ⟨hexpired, hmissed, haccounts⟩ := expireHead_counts c rest read
    refine ⟨_, exec_expiry_of_head h hcuts hraised, hlost ((expireHead_lost c rest read).of_links hblocks).unread, ?_, ?_, ?_, ?_⟩
    · exact (congrArg (fun u : State => u.dispatcher.expired) hblocks).trans hexpired
    · exact (congrArg (fun u : State => u.dispatcher.missed) hblocks).trans hmissed
    · exact (congrArg State.accounts hblocks).trans haccounts
    · rw [setRisenLevels_expiredFlag]
      show ((loseHead c rest read).links.cutter.flags ||| 2) &&& 2 = 2
      rw [BitVec.and_or_distrib_right]
      ext i
      simp

end Sys2Proof.Proofs.Cuts
end

section
/-!
TAKE (section 8.3): the heads whose arrival has passed expire, and the oldest QUEUED cut is issued.
-/

namespace Sys2Proof.Proofs.Taking

open Sys2Proof Sys2Proof.Machine Sys2Proof.Proofs.Frames Sys2Proof.Proofs.Blocks Sys2Proof.Proofs.Accepted
  Sys2Proof.Proofs.Cuts

/-! ## Events do not read the words shifted out -/

section
variable (l : Link) (n : Nat) (s : State)

theorem raise_shiftOut (e : Event) : raise e (shiftOut l n s) = shiftOut l n (raise e s) := by
  unfold raise
  generalize e.link = k
  cases k <;> cases l <;> rfl

theorem releasePlates_shiftOut (order : Option Nat) (plates : Nat) :
    releasePlates order plates (shiftOut l n s) = shiftOut l n (releasePlates order plates s) := by
  unfold releasePlates
  cases order with
  | none => rfl
  | some id =>
    by_cases h : plates = 0
    · simp only [if_pos h]
    · simp only [if_neg h]
      rfl

theorem foldRow_shiftOut (id : Nat) : foldRow id (shiftOut l n s) = shiftOut l n (foldRow id s) := by
  unfold foldRow
  rw [show (shiftOut l n s).planner = s.planner from rfl]
  cases s.planner.row id with
  | none => rfl
  | some row =>
    simp only [releasePlates_shiftOut]
    rfl

theorem foldCutRow_shiftOut (c : Cut) : foldCutRow c (shiftOut l n s) = shiftOut l n (foldCutRow c s) := by
  unfold foldCutRow
  cases c.row with
  | none => rfl
  | some id => exact foldRow_shiftOut l n s id

theorem rearmExpiry_shiftOut : rearmExpiry (shiftOut l n s) = shiftOut l n (rearmExpiry s) := by
  unfold rearmExpiry
  rw [show (shiftOut l n s).dispatcher = s.dispatcher from rfl]
  cases s.dispatcher.cuts with
  | nil => rfl
  | cons c rest => rfl

theorem expireHead_shiftOut (c : Cut) (rest : List Cut) :
    expireHead c rest (shiftOut l n s) = shiftOut l n (expireHead c rest s) := by
  have hlose : loseHead c rest (shiftOut l n s) = shiftOut l n (loseHead c rest s) := by
    unfold loseHead
    rw [← rearmExpiry_shiftOut, ← foldCutRow_shiftOut]
    rfl
  unfold expireHead
  rw [hlose, ← raise_shiftOut]
  rfl

theorem decidedRow_shiftOut (course : Course) : decidedRow (shiftOut l n s) course = decidedRow s course := by
  cases course with
  | sample m present => rfl
  | cullMode => rfl
  | noOrder => rfl
  | product c => rfl

theorem appendCut_shiftOut (target : Nat) (kind : PieceKind) (pattern : Option (Fin 8)) (row : Option Nat) :
    appendCut target kind pattern row (shiftOut l n s) = shiftOut l n (appendCut target kind pattern row s) := by
  unfold appendCut
  simp only [show (shiftOut l n s).dispatcher = s.dispatcher from rfl]
  cases s.dispatcher.cuts.isEmpty with
  | true =>
    simp only [if_true]
    rw [← rearmExpiry_shiftOut]
    rfl
  | false => rfl

theorem countBlind_shiftOut : countBlind (shiftOut l n s) = shiftOut l n (countBlind s) := by
  unfold countBlind
  rw [← raise_shiftOut]
  rfl

/-- The part with the decided row in its table, before its cut is handed over (R122). -/
def placed (course : Course) (d : Decided) (s : State) : State :=
  { s with
    planner :=
      { s.planner with
        state := .armed
        s := d.stop
        nextRowId := wrapSucc s.planner.nextRowId
        course := none
        rows := s.planner.rows ++ [d.row s.planner.nextRowId s.planner.s] }
    production :=
      { reservePlates d.order d.orderPlates s.production with samples := dropDueSample course s.production.samples } }

theorem commitRow_eq (course : Course) :
    commitRow course s =
      let d := decidedRow s course
      let cut := appendCut d.stop d.kind d.pattern (some s.planner.nextRowId) (placed course d s)
      armDeadline d.stop (if d.blind then countBlind cut else cut) := rfl

theorem commitRow_shiftOut (course : Course) : commitRow course (shiftOut l n s) = shiftOut l n (commitRow course s) := by
  rw [commitRow_eq, commitRow_eq, decidedRow_shiftOut]
  generalize decidedRow s course = d
  simp only [show placed course d (shiftOut l n s) = shiftOut l n (placed course d s) from rfl, appendCut_shiftOut,
    countBlind_shiftOut, ← apply_ite]
  rfl

theorem setIfRisen_shiftOut (e : Event) (old new : Bool) :
    setIfRisen e old new (shiftOut l n s) = shiftOut l n (setIfRisen e old new s) := by
  rw [setIfRisen_eq, setIfRisen_eq, raise_shiftOut, ← apply_ite]

theorem setRisenLevels_shiftOut (old : State) :
    setRisenLevels (shiftOut l n old) (shiftOut l n s) = shiftOut l n (setRisenLevels old s) := by
  unfold setRisenLevels
  rw [← setIfRisen_shiftOut, ← setIfRisen_shiftOut, ← setIfRisen_shiftOut]
  rfl

theorem settleHeld_shiftOut : settleHeld (shiftOut l n s) = shiftOut l n (settleHeld s) := by
  unfold settleHeld makeHeldCommit asEvent
  rw [show (shiftOut l n s).heldIsDue = s.heldIsDue from rfl, show (shiftOut l n s).planner = s.planner from rfl]
  cases s.planner.course with
  | none => exact (ite_self _).trans (congrArg (shiftOut l n) (ite_self _).symm)
  | some c => simp only [commitRow_shiftOut, setRisenLevels_shiftOut, ← apply_ite]

end

/-! ## The heads that expire are few -/

/-- What bounds the expiries of a TAKE: the cuts that wait, and a held commit that can add one. -/
def expiriesLeft (s : State) : Nat := s.dispatcher.cuts.length + if s.planner.state = .held then 1 else 0

theorem expirePassed_step {fuel : Nat} {s : State} {c : Cut} {rest : List Cut} (hcuts : s.dispatcher.cuts = c :: rest)
    (hpassed : c.state = .queued ∧ c.target + s.conf.dCut < s.travel.p) :
    expirePassed (fuel + 1) s = expirePassed fuel (settleHeld (asEvent (expireHead c rest) s)) := by
  simp only [expirePassed, hcuts]
  exact if_pos hpassed

theorem expirePassed_stop {s : State}
    (h : ∀ c rest, s.dispatcher.cuts = c :: rest → c.state = .queued → s.travel.p ≤ c.target + s.conf.dCut) :
    ∀ fuel, expirePassed fuel s = s
  | 0 => rfl
  | fuel + 1 => by
    unfold expirePassed
    split
    next c rest hcuts => exact if_neg fun ⟨hstate, hpassed⟩ => Nat.not_lt.mpr (h c rest hcuts hstate) hpassed
    next => rfl

theorem expireHead_planner_state (c : Cut) (rest : List Cut) (s : State) :
    (expireHead c rest s).planner.state = s.planner.state := by
  have hplanner : (expireHead c rest s).planner = (loseHead c rest s).planner := rfl
  rw [hplanner, loseHead_planner]

theorem settleHeld_cases (s : State) :
    settleHeld s = s ∨ ∃ c, s.planner.state = .held ∧ settleHeld s = asEvent (commitRow c) s := by
  unfold settleHeld makeHeldCommit
  split
  next hdue =>
    have hheld : s.planner.state = .held := by
      unfold State.heldIsDue at hdue
      rw [Bool.and_eq_true, beq_iff_eq] at hdue
      exact hdue.1
    cases s.planner.course with
    | none => exact .inl rfl
    | some c => exact .inr ⟨c, hheld, rfl⟩
  next => exact .inl rfl

/-- A held commit that is made adds the one cut it stood for. -/
theorem expiriesLeft_settleHeld (s : State) : expiriesLeft (settleHeld s) ≤ expiriesLeft s := by
  rcases settleHeld_cases s with hsame | ⟨c, hheld, hmade⟩
  · exact Nat.le_of_eq (congrArg expiriesLeft hsame)
  · obtain ⟨hplanner, hdispatcher, -⟩ := commitRow_spec c s
    have hstate : (settleHeld s).planner.state = .armed := by
      rw [hmade, asEvent, setRisenLevels_planner, hplanner]
    have hcuts : (settleHeld s).dispatcher.cuts.length = s.dispatcher.cuts.length + 1 := by
      rw [hmade, asEvent, setRisenLevels_dispatcher, hdispatcher, List.length_append, List.length_singleton]
    refine Nat.le_of_eq ?_
    unfold expiriesLeft
    rw [hcuts, if_pos hheld, if_neg (by rw [hstate]; decide)]

/-- Each expiry leaves fewer to make. -/
theorem expiriesLeft_expired (c : Cut) (rest : List Cut) (s : State) (hcuts : s.dispatcher.cuts = c :: rest) :
    expiriesLeft (settleHeld (asEvent (expireHead c rest) s)) < expiriesLeft s := by
  refine Nat.lt_of_le_of_lt (expiriesLeft_settleHeld _) ?_
  unfold expiriesLeft asEvent
  rw [setRisenLevels_planner, setRisenLevels_dispatcher, expireHead_planner_state, hcuts,
    show (expireHead c rest s).dispatcher.cuts = rest from loseHead_cuts c rest s, List.length_cons]
  omega

/-- Any fuel that is enough gives the same. -/
theorem expirePassed_fuel :
    ∀ (n m : Nat) (s : State), expiriesLeft s ≤ n → expiriesLeft s ≤ m → expirePassed n s = expirePassed m s := by
  intro n
  induction n with
  | zero =>
    intro m s hn _
    have hempty : s.dispatcher.cuts = [] := List.length_eq_zero_iff.mp (by unfold expiriesLeft at hn; omega)
    exact (expirePassed_stop (s := s) (fun c rest hcuts => by rw [hempty] at hcuts; cases hcuts) m).symm
  | succ n ih =>
    intro m s hn hm
    by_cases hpassed : ∃ c rest, s.dispatcher.cuts = c :: rest ∧ c.state = .queued ∧ c.target + s.conf.dCut < s.travel.p
    · obtain ⟨c, rest, hcuts, hpassed⟩ := hpassed
      have hless := expiriesLeft_expired c rest s hcuts
      cases m with
      | zero => omega
      | succ m => rw [expirePassed_step hcuts hpassed, expirePassed_step hcuts hpassed, ih m _ (by omega) (by omega)]
    · have hstop : ∀ c rest, s.dispatcher.cuts = c :: rest → c.state = .queued → s.travel.p ≤ c.target + s.conf.dCut :=
        fun c rest hcuts hstate => Nat.not_lt.mp fun h => hpassed ⟨c, rest, hcuts, hstate, h⟩
      rw [expirePassed_stop hstop, expirePassed_stop hstop]

/-! ## Level conditions that rose have set their flags -/

/-- The level condition of an event; the events that are no level conditions have none. -/
def levelCondition : Event → State → Bool
  | .ready, s => s.ready
  | .route, s => s.routeWaiting
  | .starved, s => s.starved
  | _, _ => false

/-- An event has its flag set. -/
def Flagged (e : Event) (s : State) : Prop := (s.link e.link).flags ||| flagBit e.flag = (s.link e.link).flags

/-- From `s` to `t` no flag was lost, and every level condition that rose has set its flag. -/
def Noted (s t : State) : Prop :=
  ∀ e, (Flagged e s → Flagged e t) ∧ (levelCondition e s = false → levelCondition e t = true → Flagged e t)

theorem Noted.trans {s u t : State} (hsu : Noted s u) (hut : Noted u t) : Noted s t := by
  intro e
  obtain ⟨hkeep₁, hrise₁⟩ := hsu e
  obtain ⟨hkeep₂, hrise₂⟩ := hut e
  refine ⟨fun h => hkeep₂ (hkeep₁ h), fun hs ht => ?_⟩
  cases hu : levelCondition e u with
  | true => exact hkeep₂ (hrise₁ hs hu)
  | false => exact hrise₂ hu ht

theorem Noted.refl (s : State) : Noted s s := fun e => ⟨id, fun hs ht => by rw [hs] at ht; cases ht⟩

theorem raise_of_flagged {e : Event} {s : State} (h : Flagged e s) : raise e s = s := by
  unfold Flagged at h
  unfold raise
  rw [h]
  cases e.link <;> rfl

theorem setIfRisen_of_noted {s t : State} (h : Noted s t) (e : Event) :
    setIfRisen e (levelCondition e s) (levelCondition e t) t = t := by
  rw [setIfRisen_eq]
  split
  next hrisen => exact raise_of_flagged ((h e).2 hrisen.1 hrisen.2)
  next => rfl

theorem setRisenLevels_of_noted {s t : State} (h : Noted s t) : setRisenLevels s t = t := by
  have hready : setIfRisen .ready s.ready t.ready t = t := setIfRisen_of_noted h .ready
  have hroute : setIfRisen .route s.routeWaiting t.routeWaiting t = t := setIfRisen_of_noted h .route
  have hstarved : setIfRisen .starved s.starved t.starved t = t := setIfRisen_of_noted h .starved
  unfold setRisenLevels
  rw [hready, hroute, hstarved]

theorem flagged_congr {e : Event} {s t : State} (h : t.links = s.links) : Flagged e t ↔ Flagged e s := by
  unfold Flagged State.link
  rw [h]

theorem flagged_raise_of_flagged {e : Event} (e' : Event) {s : State} (h : Flagged e s) : Flagged e (raise e' s) := by
  unfold Flagged at h ⊢
  rw [link_raise]
  split
  · rw [BitVec.or_assoc, BitVec.or_comm (flagBit e'.flag), ← BitVec.or_assoc, h]
  · exact h

theorem flagged_raise (e : Event) (s : State) : Flagged e (raise e s) := by
  unfold Flagged
  rw [link_raise, if_pos rfl, BitVec.or_assoc, BitVec.or_self]

theorem flagged_setIfRisen_of_flagged {e : Event} (e' : Event) (old new : Bool) {s : State} (h : Flagged e s) :
    Flagged e (setIfRisen e' old new s) := by
  rw [setIfRisen_eq]
  split
  · exact flagged_raise_of_flagged e' h
  · exact h

theorem flagged_setIfRisen (e : Event) {old new : Bool} (s : State) (hold : old = false) (hnew : new = true) :
    Flagged e (setIfRisen e old new s) := by
  rw [setIfRisen_eq, if_pos ⟨hold, hnew⟩]
  exact flagged_raise e s

theorem levelCondition_setRisenLevels (e : Event) (s t : State) :
    levelCondition e (setRisenLevels s t) = levelCondition e t := by
  have hlinks : ∀ u : State, levelCondition e { u with links := t.links } = levelCondition e u := by cases e <;> exact fun _ => rfl
  rw [← hlinks (setRisenLevels s t), setRisenLevels_frame]

/-- An event notes what it makes rise. -/
theorem noted_setRisenLevels {s t : State} (hkeeps : ∀ e, Flagged e s → Flagged e t) : Noted s (setRisenLevels s t) := by
  intro e
  refine ⟨fun h => ?_, fun hold hnew => ?_⟩
  · exact flagged_setIfRisen_of_flagged _ _ _ (flagged_setIfRisen_of_flagged _ _ _
      (flagged_setIfRisen_of_flagged _ _ _ (hkeeps e h)))
  · rw [levelCondition_setRisenLevels] at hnew
    cases e with
    | ready =>
      exact flagged_setIfRisen_of_flagged _ _ _ (flagged_setIfRisen_of_flagged _ _ _ (flagged_setIfRisen _ _ hold hnew))
    | route => exact flagged_setIfRisen_of_flagged _ _ _ (flagged_setIfRisen _ _ hold hnew)
    | starved => exact flagged_setIfRisen _ _ hold hnew
    | _ => cases hnew

theorem flagged_expireHead {e : Event} (c : Cut) (rest : List Cut) {s : State} (h : Flagged e s) :
    Flagged e (expireHead c rest s) := by
  have hlinks : (loseHead c rest s).links = s.links := (congrArg State.links (loseHead_frame c rest s) :)
  exact flagged_raise_of_flagged .expired ((flagged_congr (t := (loseHead c rest s)) hlinks).mpr h)

theorem flagged_commitRow {e : Event} (c : Course) {s : State} (h : Flagged e s) : Flagged e (commitRow c s) := by
  have hcut : ∀ d : Decided, Flagged e (appendCut d.stop d.kind d.pattern (some s.planner.nextRowId) (placed c d s)) :=
    fun d => (flagged_congr (appendCut_links _ _ _ _ _)).mpr h
  rw [commitRow_eq]
  simp only
  refine (flagged_congr (armDeadline_links _ _)).mpr ?_
  split
  · exact flagged_raise_of_flagged .blind (hcut _)
  · exact hcut _

theorem noted_settleHeld (s : State) : Noted s (settleHeld s) := by
  rcases settleHeld_cases s with hsame | ⟨c, -, hmade⟩
  · rw [hsame]
    exact .refl s
  · rw [hmade]
    exact noted_setRisenLevels fun e => flagged_commitRow c

theorem noted_expirePassed (fuel : Nat) : ∀ s, Noted s (expirePassed fuel s) := by
  induction fuel with
  | zero => exact Noted.refl
  | succ fuel ih =>
    intro s
    unfold expirePassed
    split
    next c rest _ =>
      split
      · have hexpired : Noted s (asEvent (expireHead c rest) s) := noted_setRisenLevels fun e => flagged_expireHead c rest
        exact (hexpired.trans (noted_settleHeld _)).trans (ih _)
      · exact .refl s
    next => exact .refl s

/-! ## The cut that is issued (R140) -/

section
variable {s : State} {before after : List Cut} {c : Cut}

theorem oldestQueued_eq_none (h : ∀ c ∈ s.dispatcher.cuts, c.state = .issued) : s.dispatcher.oldestQueued = none :=
  List.find?_eq_none.mpr fun c hc => by simp [h c hc]

theorem oldestQueued_of_split (hcuts : s.dispatcher.cuts = before ++ c :: after) (hstate : c.state = .queued)
    (hbefore : ∀ x ∈ before, x.state = .issued) : s.dispatcher.oldestQueued = some c := by
  have hnone : before.find? (fun c => c.state == .queued) = none := List.find?_eq_none.mpr fun x hx => by
    simp [hbefore x hx]
  unfold Dispatcher.oldestQueued
  rw [hcuts, List.find?_append, hnone, Option.none_or, List.find?_cons_of_pos (by simp [hstate])]

theorem issue_of_split (hcuts : s.dispatcher.cuts = before ++ c :: after) (hstate : c.state = .queued)
    (hbefore : ∀ x ∈ before, x.state = .issued) :
    s.dispatcher.issue = { s.dispatcher with cuts := before ++ { c with state := .issued } :: after } := by
  unfold Dispatcher.issue
  rw [hcuts, updateFirst_append _ (fun x hx => by simp [hbefore x hx]) (by simp [hstate])]

theorem ready_of_mem {c : Cut} (hc : c ∈ s.dispatcher.cuts) (hstate : c.state = .queued) : s.ready = true :=
  List.any_eq_true.mpr ⟨c, hc, by simp [hstate]⟩

theorem issueCut_empty (h : s.dispatcher.oldestQueued = none) : issueCut s = (s, Reply.refused .empty) := by
  simp only [issueCut, h]

theorem issueCut_busy (h : s.dispatcher.oldestQueued = some c) (hbusy : 2 ≤ s.dispatcher.issuedCount) :
    issueCut s = (s, Reply.refused .busy) := by
  simp only [issueCut, h]
  exact if_pos hbusy

theorem issueCut_issues (h : s.dispatcher.oldestQueued = some c) (hroom : s.dispatcher.issuedCount < 2) :
    issueCut s = ({ s with dispatcher := s.dispatcher.issue }, Reply.done (cutRecord s.conf.dCut c)) := by
  simp only [issueCut, h]
  exact if_neg (Nat.not_le.mpr hroom)

end

/-- Issuing a cut lets no level condition rise. -/
theorem noted_issueCut (s : State) : Noted s (issueCut s).1 := by
  cases holdest : s.dispatcher.oldestQueued with
  | none =>
    rw [issueCut_empty holdest]
    exact .refl s
  | some c =>
    by_cases hroom : s.dispatcher.issuedCount < 2
    · rw [issueCut_issues holdest hroom]
      refine fun e => ⟨id, fun hold hnew => ?_⟩
      cases e with
      | ready =>
        have hqueued := List.find?_some holdest
        have hready : s.ready = true := List.any_eq_true.mpr ⟨c, List.mem_of_find?_eq_some holdest, hqueued⟩
        exact absurd hold (by simp [levelCondition, hready])
      | route | starved => exact absurd hnew (by rw [Bool.not_eq_true]; exact hold)
      | _ => cases hnew
    · rw [issueCut_busy holdest (Nat.not_lt.mp hroom)]
      exact .refl s

/-- The words of a cut record. -/
theorem cutRecord_eq (dCut : Nat) (c : Cut) :
    cutRecord dCut c =
      [word c.seq] ++ words32 c.target ++
        [BitVec.ofNat 16 ((c.target + dCut) / 65536), BitVec.ofNat 16 (c.target + dCut)] ++
        [word (c.kind.code + 16 * (match c.pattern with
          | some i => i.val
          | none => 15))] := by
  unfold cutRecord
  cases c.pattern <;> rfl

/-! ## The transfer -/

/-- What a TAKE leaves of a part that is not in reset. -/
theorem exec_take {s : State} (h : s.inReset = false) (arg : Byte) (b : Body) :
    exec (.take .cutter arg b) s =
      let r := takeCut (shiftOut .cutter (b.data.length + 1) (settle s))
      .next (setPending .cutter (r.2.response 0x20) r.1) := by
  have hpasses : ∀ m, (cutterEntry 0x20 0).refusal .cutter b m = none := fun m => passes_cutter (Nat.zero_le _)
  have hnoted := fun u : State => setRisenLevels_of_noted
    ((noted_expirePassed (u.dispatcher.cuts.length + 2) u).trans (noted_issueCut _))
  show command (cutterEntry 0x20 0) .cutter b takeCut s = _
  simp only [command, transfer, h, respond, hpasses, takeCut, hnoted]
  rfl

/-- A part that expires its head has nothing due but a held commit. -/
theorem settle_expired {s : State} (h : Working s) (c : Cut) (rest : List Cut) :
    settle (asEvent (expireHead c rest) s) = settleHeld (asEvent (expireHead c rest) s) := by
  obtain ⟨hstop, hstep, -⟩ := (quiet_iff s).mp h.2
  have htravel :
      { (asEvent (expireHead c rest) s).travel with
        expiry := s.travel.expiry, expiryRaised := s.travel.expiryRaised } = s.travel := by
    rw [asEvent, setRisenLevels_travel]
    exact loseHead_travel c rest s
  have hstop' : (asEvent (expireHead c rest) s).stopIsDue = false :=
    (congrArg (fun t : Travel => t.lastPulse == Config.stoppedTicks && !t.stopped) htravel).trans hstop
  have hstep' : (asEvent (expireHead c rest) s).travel.stepDue = false := (congrArg Travel.stepDue htravel).trans hstep
  have hsettled : settleStop (asEvent (expireHead c rest) s) = asEvent (expireHead c rest) s :=
    if_neg (by rw [hstop']; exact Bool.false_ne_true)
  unfold settle
  rw [hsettled]
  exact congrArg settleHeld (if_neg (by rw [hstep']; exact Bool.false_ne_true))

/-- A TAKE that expires the head goes on as a TAKE after that expiry. -/
theorem exec_take_expired {s : State} (h : Working s) (arg : Byte) (b : Body) {c : Cut} {rest : List Cut}
    (hcuts : s.dispatcher.cuts = c :: rest) (hpassed : c.state = .queued ∧ c.target + s.conf.dCut < s.travel.p) :
    exec (.take .cutter arg b) s = exec (.take .cutter arg b) (asEvent (expireHead c rest) s) := by
  let n := b.data.length + 1
  let t := asEvent (expireHead c rest) s
  have hreset : t.inReset = false :=
    (setRisenLevels_inReset _ _).trans ((congrArg State.inReset (expireHead_frame c rest s) :).trans h.1)
  have hread : settleHeld (asEvent (expireHead c rest) (shiftOut .cutter n s)) = shiftOut .cutter n (settleHeld t) := by
    rw [← settleHeld_shiftOut, asEvent, expireHead_shiftOut, setRisenLevels_shiftOut]
    rfl
  have hstep : takeCut (shiftOut .cutter n s) = takeCut (shiftOut .cutter n (settleHeld t)) := by
    have hless : expiriesLeft (shiftOut .cutter n (settleHeld t)) < expiriesLeft s := expiriesLeft_expired c rest s hcuts
    have hleft : expiriesLeft s ≤ s.dispatcher.cuts.length + 1 := by unfold expiriesLeft; split <;> omega
    have hleft' : expiriesLeft (shiftOut .cutter n (settleHeld t)) ≤
        (shiftOut .cutter n (settleHeld t)).dispatcher.cuts.length + 2 := by unfold expiriesLeft; split <;> omega
    unfold takeCut
    rw [expirePassed_step (s := shiftOut .cutter n s) hcuts hpassed, hread]
    exact congrArg issueCut (expirePassed_fuel _ _ _ (by show _ ≤ s.dispatcher.cuts.length + 1; omega) hleft')
  rw [exec_take h.1, exec_take hreset, settle_of_quiet h.2, settle_expired h]
  simp only [show takeCut (shiftOut .cutter (b.data.length + 1) s) = _ from hstep]
  rfl

/-- A TAKE that expires no head issues the oldest QUEUED cut, or refuses. -/
theorem takeCut_of_no_expiry {s : State}
    (h : ∀ c rest, s.dispatcher.cuts = c :: rest → c.state = .queued → s.travel.p ≤ c.target + s.conf.dCut) :
    takeCut s = issueCut s := congrArg issueCut (expirePassed_stop h _)

/-- Settles O35. -/
theorem takeIssuesTheOldestCut : Obligations.TakeIssuesTheOldestCut := by
  intro s arg b h
  let read := shiftOut .cutter (b.data.length + 1) s
  have hpasses : (cutterEntry 0x20 0).refusal .cutter b s.mode = none := passes_cutter (Nat.zero_le _)
  refine ⟨fun c rest hcuts hstate hpassed => ?_, fun hnone => ⟨fun hissued => ?_, fun before after c hcuts hstate hbefore =>
    ⟨fun hbusy => ?_, fun hroom => ?_⟩⟩⟩
  · exact ⟨_, exec_expiry_of_head (s := { s with travel := { s.travel with expiryRaised := c.seq :: s.travel.expiryRaised } })
      h hcuts rfl, exec_take_expired h arg b hcuts ⟨hstate, hpassed⟩⟩
  · exact command_answer h hpasses
      ((takeCut_of_no_expiry (s := read) hnone).trans (issueCut_empty (oldestQueued_eq_none hissued)))
  · exact command_answer h hpasses
      ((takeCut_of_no_expiry (s := read) hnone).trans (issueCut_busy (oldestQueued_of_split hcuts hstate hbefore) hbusy))
  · have hissues := (takeCut_of_no_expiry (s := read) hnone).trans
      (issueCut_issues (oldestQueued_of_split hcuts hstate hbefore) hroom)
    have hcut : read.dispatcher.issue = { s.dispatcher with cuts := before ++ { c with state := .issued } :: after } :=
      issue_of_split (s := s) hcuts hstate hbefore
    rw [hcut, cutRecord_eq] at hissues
    have hready : s.ready = true := ready_of_mem (hcuts ▸ List.mem_append_right before List.mem_cons_self) hstate
    exact command_lowers (t := { s with dispatcher := { s.dispatcher with cuts := _ } }) h hpasses hissues (fun _ => hready)
      id id

end Sys2Proof.Proofs.Taking
end

section
/-!
A raised deadline opens the decision (section 7.4).
-/

namespace Sys2Proof.Proofs.Opening

open Sys2Proof Sys2Proof.Machine

/-! ## The course of the decision (R120) -/

section
variable {s : State} {start : Nat}

theorem courseAt_sample {m : Nat} {rest : List Nat} (hsamples : s.production.samples = m :: rest) (hdue : m ≤ start) :
    s.courseAt start = .sample m true := by
  simp only [State.courseAt, dueSample, hsamples, if_pos hdue]

theorem dueSample_eq_none {samples : List Nat} (h : ∀ m rest, samples = m :: rest → start < m) :
    dueSample samples start = none := by
  unfold dueSample
  split
  next m rest => exact if_neg (Nat.not_le.mpr (h m rest rfl))
  next => rfl

section
variable (hlater : ∀ m rest, s.production.samples = m :: rest → start < m)
include hlater

theorem courseAt_cullMode (hmode : s.mode = .cull) : s.courseAt start = .cullMode := by
  simp only [State.courseAt, dueSample_eq_none hlater, if_pos hmode]

theorem courseAt_noOrder (hmode : s.mode = .run) (hnone : activeOrder s.production.orders = none) :
    s.courseAt start = .noOrder := by
  have hcull : ¬s.mode = .cull := by rw [hmode]; decide
  simp only [State.courseAt, dueSample_eq_none hlater, if_neg hcull, hnone]

theorem courseAt_product {o : Order} (hmode : s.mode = .run) (ho : activeOrder s.production.orders = some o) :
    s.courseAt start = .product o.course := by
  have hcull : ¬s.mode = .cull := by rw [hmode]; decide
  simp only [State.courseAt, dueSample_eq_none hlater, if_neg hcull, ho]

end

end

/-! ## The opening of the decision -/

theorem exec_deadlineEvent {s : State} (h : Working s) {d : Nat} (hraised : s.travel.deadlineRaised = some d)
    (harmed : s.planner.state = .armed) : exec .deadlineEvent s = .next (setRisenLevels s (openDecision s)) := by
  have hreceived : receiveDeadline s = openDecision s := by
    simp only [receiveDeadline, hraised]
    exact if_pos harmed
  show blockStep receiveDeadline s = _
  rw [blockStep_of_working h, hreceived]

/-- The part on which the course is decided: the switch has taken effect. -/
def switched (s : State) : State := takeSwitch { s with travel := { s.travel with deadlineRaised := none } }

theorem openDecision_planner_eq (s : State) :
    (openDecision s).planner =
      { s.planner with state := .deciding, course := some ((switched s).courseAt s.planner.s) } := by
  have hplanner : (switched s).planner = s.planner := takeSwitch_planner _
  rw [← hplanner]
  rfl

/-- Settles O31. -/
theorem deadlineOpensTheDecision : Obligations.DeadlineOpensTheDecision := by
  refine ⟨fun s d h hraised harmed => ?_, fun orders => ?_⟩
  · intro mode
    have hmode : (switched s).mode = mode := takeSwitch_mode _
    have hproduction : (switched s).production = s.production := takeSwitch_production _
    have hlinks := openDecision_links s
    refine ⟨_, (switched s).courseAt s.planner.s, exec_deadlineEvent h hraised harmed, ?_, ?_, ?_, ?_,
      fun m rest hsamples hdue => ?_, fun hlater => ⟨fun hcull => ?_, fun hrun hnone => ?_, fun hrun o ho => ?_⟩, fun hnone => ?_, fun hsome => ?_, ?_⟩
    · rw [setRisenLevels_planner, openDecision_planner_eq]
    · rw [setRisenLevels_travel]
      exact takeSwitch_travel _
    · rw [setRisenLevels_mode]
      exact hmode
    · rw [setRisenLevels_switch]
      exact takeSwitch_switch _
    · exact courseAt_sample (hproduction ▸ hsamples) hdue
    · exact courseAt_cullMode (hproduction ▸ hlater) (hmode.trans hcull)
    · exact courseAt_noOrder (hproduction ▸ hlater) (hmode.trans hrun) (hproduction ▸ hnone)
    · exact courseAt_product (hproduction ▸ hlater) (hmode.trans hrun) (hproduction ▸ ho)
    · rw [hlinks, if_pos hnone]
    · rw [hlinks, if_neg hsome]
    · exact (congrArg
        (fun t : State =>
          { t with planner := s.planner, travel := s.travel, mode := s.mode, switch := s.switch, links := s.links })
        (setRisenLevels_frame s (openDecision s)) :).trans (openDecision_frame s)
  · intro wants
    have hwants : ∀ o : Order, o.wants = true ↔ wants o := wants_iff
    refine ⟨fun o => ?_, ?_⟩
    · simp only [activeOrder_eq_some_iff, hwants]
    · simp only [activeOrder_eq_none_iff, hwants]

end Sys2Proof.Proofs.Opening
end

section
/-!
A decision completes: the row and its trailing cut (sections 7.5 and 7.6).
-/

namespace Sys2Proof.Proofs.Committing

open Sys2Proof Sys2Proof.Machine

/-! ## The step that completes the decision (R122) -/

theorem completeOpenDecision_of_deciding {s : State} (hstate : s.planner.state = .deciding) {course : Course}
    (hcourse : s.planner.course = some course) : completeOpenDecision s = completeDecision course s := by
  simp only [completeOpenDecision, hcourse]
  exact if_pos hstate

/-- Both completing steps commit the course in progress. -/
theorem exec_completes {c : Instr} {s : State} (h : Completes c s) {course : Course}
    (hcourse : s.planner.course = some course) : exec c s = .next (setRisenLevels s (commitRow course s)) := by
  obtain ⟨hrows, ⟨rfl, hstate, hworking⟩ | ⟨rfl, hstate, hreset⟩⟩ := h
  · have hslot : s.planner.hasSlot = true := decide_eq_true hrows
    show blockStep completeOpenDecision s = _
    rw [blockStep_of_working hworking, completeOpenDecision_of_deciding hstate hcourse]
    exact congrArg (fun t => Host.Outcome.next (setRisenLevels s t)) (if_pos hslot)
  · have hdue : s.heldIsDue = true := by
      unfold State.heldIsDue
      rw [Bool.and_eq_true]
      exact ⟨beq_iff_eq.mpr hstate, decide_eq_true hrows⟩
    have hmade : settleHeld s = asEvent (commitRow course) s := by
      unfold settleHeld
      rw [if_pos hdue]
      simp only [makeHeldCommit, hcourse]
    show dueStep settleHeld s = _
    rw [dueStep_of_not_reset hreset, hmade]
    rfl

/-- What the completing step leaves: the row of the course laid, and the order list and the sample list after it. -/
theorem exec_lays {c : Instr} {s : State} (h : Completes c s) {course : Course} (hcourse : s.planner.course = some course)
    {d : Decided} (hd : decidedRow s course = d) :
    ∃ t, exec c s = .next t ∧ RowLaid s t (d.row s.planner.nextRowId s.planner.s) d.blind ∧
      t.production =
        { reservePlates d.order d.orderPlates s.production with samples := dropDueSample course s.production.samples } := by
  subst hd
  refine ⟨_, exec_completes h hcourse, commitRow_laid course s, ?_⟩
  rw [setRisenLevels_production]
  exact (commitRow_spec course s).2.2

/-- A row without order plates leaves the production tables, but for a sample it takes. -/
theorem exec_lays_no_plates {c : Instr} {s : State} (h : Completes c s) {course : Course}
    (hcourse : s.planner.course = some course) {d : Decided} (hd : decidedRow s course = d)
    (hplates : reservePlates d.order d.orderPlates s.production = s.production)
    (hsamples : dropDueSample course s.production.samples = s.production.samples) :
    ∃ t, exec c s = .next t ∧ RowLaid s t (d.row s.planner.nextRowId s.planner.s) d.blind ∧
      t.production = s.production := by
  obtain ⟨t, hexec, hlaid, hproduction⟩ := exec_lays h hcourse hd
  rw [hplates, hsamples] at hproduction
  exact ⟨t, hexec, hlaid, hproduction⟩

theorem exec_commit_full {s : State} (h : Working s) (hstate : s.planner.state = .deciding) {course : Course}
    (hcourse : s.planner.course = some course) (hfull : 18 ≤ s.planner.rows.length) :
    exec .commit s = .next { s with planner := { s.planner with state := .held } } := by
  have hslot : ¬s.planner.hasSlot = true := fun hslot => Nat.not_le.mpr (of_decide_eq_true hslot) hfull
  have hcompleted : completeDecision course s = { s with planner := { s.planner with state := .held } } := if_neg hslot
  show blockStep completeOpenDecision s = _
  rw [blockStep_of_working h, completeOpenDecision_of_deciding hstate hcourse, hcompleted]
  exact congrArg Host.Outcome.next (setRisenLevels_of_same id id id)

/-- Settles O32. -/
theorem commitLaysRowAndCut : Obligations.CommitLaysRowAndCut := by
  refine ⟨fun c s h => ?_, fun s course h hstate hcourse hfull => exec_commit_full h hstate hcourse hfull⟩
  intro p
  refine ⟨fun hcourse => ?_, fun m present hcourse => ?_⟩
  · rcases hcourse with hcourse | hcourse
    · exact exec_lays_no_plates h hcourse rfl rfl rfl
    · exact exec_lays_no_plates h hcourse rfl rfl rfl
  · intro stop unverified
    obtain ⟨t, hexec, hlaid, hproduction⟩ := exec_lays h hcourse rfl
    have hinspected : s.notInspected s.planner.s stop = unverified := notInspected_eq s s.planner.s stop
    refine ⟨t, hexec, ?_, ?_⟩
    · rw [← hinspected]
      exact hlaid
    · rw [hproduction]
      cases present <;> rfl

/-! ## The row of a PRODUCT course (R127 to R131) -/

section
variable {s : State} {c : ProductCourse}

theorem productRow_of_undefined (h : s.production.patterns[c.pattern] = []) :
    productRow s c = productCullRow s (s.planner.s + s.conf.cmax) false := by
  simp only [productRow, h]
  rfl

section
variable (hcolumns : s.production.patterns[c.pattern] ≠ [])
include hcolumns

theorem productRow_of_clear
    (hclear : rejecters s ⟨s.planner.s, s.planner.s + c.lp, s.production.patterns[c.pattern], c.grade⟩ = []) :
    productRow s c =
      plateRow s c .product (s.planner.s + c.lp) (s.production.patterns[c.pattern]).length
        (reserved s c (s.production.patterns[c.pattern]).length) := by
  have hempty : ¬(s.production.patterns[c.pattern]).isEmpty = true := by simpa using hcolumns
  simp only [productRow, if_neg hempty, hclear]

variable {r : Rejecter} {rs : List Rejecter}
  (hfound : rejecters s ⟨s.planner.s, s.planner.s + c.lp, s.production.patterns[c.pattern], c.grade⟩ = r :: rs)
include hfound

theorem productRow_of_fits {length : Nat}
    (hfits : shortFits c s.planner.s (max s.planner.s (firstStart r rs)) (r :: rs) = some length) :
    productRow s c = plateRow s c .short (s.planner.s + length) (s.production.patterns[c.pattern]).length 0 := by
  have hempty : ¬(s.production.patterns[c.pattern]).isEmpty = true := by simpa using hcolumns
  simp only [productRow, if_neg hempty, hfound, hfits]

theorem productRow_of_chain
    (hfits : shortFits c s.planner.s (max s.planner.s (firstStart r rs)) (r :: rs) = none) :
    productRow s c = chainRow s r rs := by
  have hempty : ¬(s.production.patterns[c.pattern]).isEmpty = true := by simpa using hcolumns
  simp only [productRow, if_neg hempty, hfound, hfits]

end

end

/-! ## The first rejecter, and the SHORT row before it (R130) -/

/-- The smallest of a start and those of a list of rejecters. -/
theorem foldl_min_first (rs : List Rejecter) :
    ∀ m, let least := rs.foldl (fun m x => min m x.first) m
      least ≤ m ∧ (∀ x ∈ rs, least ≤ x.first) ∧ (least = m ∨ ∃ x ∈ rs, least = x.first) := by
  induction rs with
  | nil =>
    intro m least
    exact ⟨Nat.le_refl m, fun x hx => (nomatch hx), .inl rfl⟩
  | cons r rs ih =>
    intro m least
    obtain ⟨hle, hall, hmem⟩ := ih (min m r.first)
    simp only [List.mem_cons, forall_eq_or_imp, exists_eq_or_imp]
    refine ⟨Nat.le_trans hle (Nat.min_le_left _ _), ⟨Nat.le_trans hle (Nat.min_le_right _ _), hall⟩, ?_⟩
    rcases hmem with heq | hin
    · exact (Nat.le_total m r.first).imp (fun h => heq.trans (Nat.min_eq_left h)) fun h =>
        .inl (heq.trans (Nat.min_eq_right h))
    · exact .inr (.inr hin)

theorem firstStart_le {r : Rejecter} {rs : List Rejecter} : ∀ x ∈ r :: rs, firstStart r rs ≤ x.first := by
  obtain ⟨hle, hall, -⟩ := foldl_min_first rs r.first
  simp only [List.mem_cons, forall_eq_or_imp]
  exact ⟨hle, hall⟩

theorem exists_firstStart (r : Rejecter) (rs : List Rejecter) : ∃ x ∈ r :: rs, firstStart r rs = x.first := by
  obtain ⟨-, -, hmem⟩ := foldl_min_first rs r.first
  simp only [List.mem_cons, exists_eq_or_imp]
  exact hmem

theorem firstStart_eq {r x : Rejecter} {rs : List Rejecter} (hx : x ∈ r :: rs)
    (hfirst : ∀ y ∈ r :: rs, x.first ≤ y.first) : firstStart r rs = x.first := by
  obtain ⟨y, hy, heq⟩ := exists_firstStart r rs
  exact Nat.le_antisymm (firstStart_le x hx) (heq ▸ hfirst y hy)

section
variable {c : ProductCourse} {start first : Nat} {rs : List Rejecter}

/-- A SHORT length that ends before the first rejecter fits. -/
theorem shortFits_of_room {length : Nat} (hfirst : ∀ r ∈ rs, first ≤ r.first) (hshort : c.short = some length)
    (hpos : 1 ≤ length) (hroom : length ≤ max start first - start) :
    shortFits c start (max start first) rs = some length := by
  have hnone : ¬(rs.any fun r => alongMeets r.first r.last start (start + length)) = true := by
    rw [List.any_eq_true]
    rintro ⟨r, hr, hmeets⟩
    have := hfirst r hr
    have := (alongMeets_iff.mp hmeets).1
    omega
  simp only [shortFits, hshort]
  exact if_pos ⟨hroom, by simpa using hnone⟩

theorem shortFits_of_no_room (h : ∀ length, c.short = some length → max start first - start < length) :
    shortFits c start (max start first) rs = none := by
  unfold shortFits
  split
  next length hshort => exact if_neg fun ⟨hroom, _⟩ => Nat.not_le.mpr (h length hshort) hroom
  next => rfl

end

/-! ## The order plates of a PRODUCT row (R96, R128) -/

section
variable {s : State} {c : ProductCourse} {k : Nat}

theorem reserved_of_open {o : Order} (hpresent : c.present = true) (ho : s.production.order c.order = some o)
    (hopen : o.state = .opened) : reserved s c k = min k (o.wanted - o.delivered - o.inFlight) := by
  simp only [reserved, if_pos hpresent, ho, if_pos hopen]
  rfl

theorem reserved_of_not_open
    (h : c.present = false ∨ ∀ o, s.production.order c.order = some o → o.state ≠ .opened) : reserved s c k = 0 := by
  unfold reserved
  rcases h with habsent | hstate
  · exact if_neg (by rw [habsent]; exact Bool.false_ne_true)
  · split
    · split
      next o ho => exact if_neg (hstate o ho)
      next => rfl
    · rfl

end

/-- Plates reserved on an order that is in the list are in flight on it, and no other order changes. -/
theorem reservePlates_order {p : Production} {id : Nat} {o : Order} (ho : p.order id = some o) (plates : Nat) :
    (reservePlates (some id) plates p).order id = some { o with inFlight := o.inFlight + plates } ∧
      (∀ other, other ≠ id → (reservePlates (some id) plates p).order other = p.order other) ∧
        { reservePlates (some id) plates p with orders := p.orders } = p := by
  by_cases hplates : plates = 0
  · subst hplates
    exact ⟨ho, fun _ _ => rfl, rfl⟩
  · have hreserved : reservePlates (some id) plates p =
        p.updateOrder id fun o => { o with inFlight := o.inFlight + plates } := if_neg hplates
    obtain ⟨hid, hothers⟩ := updateOrder_order (f := fun o => { o with inFlight := o.inFlight + plates }) (fun _ => rfl) ho
    rw [hreserved]
    exact ⟨hid, hothers, rfl⟩

/-- The end of the chain of a CULL row begins at a rejecter with the first start (R129). -/
theorem chainRow_eq (s : State) (r : Rejecter) (rs : List Rejecter) :
    let e := cullChain s.conf.cmin r rs
    let length := max s.conf.cmin (min s.conf.cmax (e + s.conf.cullMargin - s.planner.s))
    chainRow s r rs =
      productCullRow s (s.planner.s + length)
        ((r :: rs).any fun x => x.blind && decide (x.first < s.planner.s + length ∧ s.planner.s ≤ x.last)) := by
  simp only [chainRow, alongMeets, Bool.decide_and]

/-- Settles O33. -/
theorem productCourseCommitsItsRow : Obligations.ProductCourseCommitsItsRow := by
  intro i s c h hcourse p conf columns found notInspected unverified cullRow plateRow
  have hinspected : ∀ stop, s.notInspected s.planner.s stop = notInspected stop := fun stop =>
    notInspected_eq s s.planner.s stop
  have hcull : ∀ (length : Nat) (blind : Bool),
      (productCullRow s (p.s + length) blind).row p.nextRowId p.s = cullRow length := fun length blind =>
    congrArg (fun flag => ({ cullRow length with unverified := flag } : Row)) (hinspected (p.s + length))
  have hflag : ∀ stop, (s.recipes.current.policy == .pass && s.notInspected s.planner.s stop) = unverified stop :=
    fun stop => congrArg (fun flag => s.recipes.current.policy == .pass && flag) (hinspected stop)
  have hplate : ∀ kind length plates,
      (Machine.plateRow s c kind (p.s + length) columns.length plates).row p.nextRowId p.s = plateRow kind length plates :=
    fun kind length plates =>
      congrArg (fun flag => ({ plateRow kind length plates with unverified := flag } : Row)) (hflag (p.s + length))
  have hblind : ∀ kind length plates,
      (Machine.plateRow s c kind (p.s + length) columns.length plates).blind = unverified (p.s + length) :=
    fun kind length plates => hflag (p.s + length)
  refine ⟨fun hundefined => ?_, fun hcolumns hclear => ?_, fun hcolumns r hr hfirst => ?_⟩
  · have hlays := exec_lays_no_plates h hcourse (productRow_of_undefined hundefined) rfl rfl
    rw [hcull] at hlays
    exact hlays
  · obtain ⟨t, hexec, hlaid, hproduction⟩ := exec_lays h hcourse (productRow_of_clear hcolumns hclear)
    rw [hplate, hblind] at hlaid
    refine ⟨t, reserved s c columns.length, hexec, hlaid, fun o hpresent ho hopen => ?_, fun hnot => ?_⟩
    · obtain ⟨horder, hothers, hframe⟩ := reservePlates_order ho (reserved s c columns.length)
      rw [hproduction]
      exact ⟨reserved_of_open hpresent ho hopen, horder, hothers,
        congrArg (fun q : Production => { q with samples := s.production.samples }) hframe⟩
    · have hnone : reserved s c columns.length = 0 := reserved_of_not_open hnot
      rw [hnone] at hproduction
      exact ⟨hnone, hproduction⟩
  · obtain ⟨r₀, rs, hrejecters⟩ := List.exists_cons_of_ne_nil (List.ne_nil_of_mem hr)
    have hlist : found = r₀ :: rs := hrejecters
    rw [hlist] at hr hfirst ⊢
    intro room
    have hstart : firstStart r₀ rs = r.first := firstStart_eq hr hfirst
    refine ⟨fun length hshort hpos hroom => ?_, fun hnoRoom => ?_⟩
    · have hfits := shortFits_of_room hfirst hshort hpos hroom
      rw [← hstart] at hfits
      have hlays := exec_lays_no_plates h hcourse (productRow_of_fits hcolumns hrejecters hfits) rfl rfl
      rw [hplate, hblind] at hlays
      exact hlays
    · have hfits := shortFits_of_no_room (rs := r₀ :: rs) hnoRoom
      rw [← hstart] at hfits
      obtain ⟨t, hexec, hlaid, hproduction⟩ := exec_lays_no_plates h hcourse
        ((productRow_of_chain hcolumns hrejecters hfits).trans (chainRow_eq s r₀ rs)) rfl rfl
      rw [hcull] at hlaid
      have hbegun := leastBy_mem Rejecter.first r₀ rs
      refine ⟨t, leastBy Rejecter.first r₀ rs, _, hexec, hbegun, ?_, cullChain_end conf.cmin r₀ rs, hproduction, hlaid⟩
      exact Nat.le_antisymm (leastBy_le Rejecter.first r₀ rs hr) (hfirst _ hbegun)

end Sys2Proof.Proofs.Committing
end

section
/-!
The rejecters of a candidate, and that none meets a committed PRODUCT or SHORT row (sections 7.6 and 11.1).
-/

namespace Sys2Proof.Proofs.Rejecting

open Sys2Proof Sys2Proof.Machine Sys2Proof.Proofs.Committing

/-! ## What rejects a candidate (R126) -/

/-- A flaw of the class, seen over these extents, rejects the candidate. -/
def Rejects (s : State) (c : Candidate) (cls : FlawClass) (first last xMin xMax : Nat) : Prop :=
  (rejectClass c.grade s.recipes.current.limits.nb).code ≤ cls.code ∧ (first < c.stop ∧ c.start ≤ last) ∧
    ∃ a ∈ c.columns, xMin < a.xr ∧ a.xl ≤ xMax

theorem rejects_iff (s : State) (c : Candidate) (cls : FlawClass) (first last xMin xMax : Nat) :
    (cls.atLeast (rejectClass c.grade s.recipes.current.limits.nb) && alongMeets first last c.start c.stop &&
        meetsColumns xMin xMax c.columns) = true ↔ Rejects s c cls first last xMin xMax := by
  rw [Bool.and_eq_true, Bool.and_eq_true, alongMeets_iff, meetsColumns_iff, FlawClass.atLeast, decide_eq_true_eq, and_assoc]
  rfl

theorem mem_mappedRejecters (s : State) (c : Candidate) (r : Rejecter) :
    r ∈ mappedRejecters s c ↔
      ∃ f ∈ s.map.flaws, Rejects s c f.cls f.firstRow f.lastRow f.xMin f.xMax ∧ r = ⟨f.firstRow, f.lastRow, f.forced⟩ := by
  simp only [mappedRejecters, List.mem_map, List.mem_filter, rejects_iff, and_assoc, eq_comm (a := r)]

theorem openRejects_iff (s : State) (c : Candidate) (f : OpenFlaw) :
    openRejects s c f = true ↔
      ∃ j, judge s.conf.netZone s.recipes f = some j ∧ Rejects s c j.cls f.firstRow f.lastRow j.xMin j.xMax := by
  unfold openRejects
  cases hj : judge s.conf.netZone s.recipes f with
  | none => simp
  | some j => simp only [rejects_iff, Option.some.injEq, exists_eq_left']

theorem mem_openRejecters (s : State) (c : Candidate) (r : Rejecter) :
    r ∈ openRejecters s c ↔
      ∃ x ∈ s.assembler.openFlaws, (∃ j, judge s.conf.netZone s.recipes x.flaw = some j ∧
        Rejects s c j.cls x.flaw.firstRow x.flaw.lastRow j.xMin j.xMax) ∧ r = ⟨x.flaw.firstRow, x.flaw.lastRow, false⟩ := by
  simp only [openRejecters, List.mem_map, List.mem_filter, openRejects_iff, and_assoc, eq_comm (a := r)]

theorem mem_blindRejecters (s : State) (c : Candidate) (r : Rejecter) :
    r ∈ blindRejecters s c ↔
      s.recipes.current.policy = .cull ∧
        ((∃ x ∈ s.map.spans, (x.first < c.stop ∧ c.start ≤ x.last) ∧ r = ⟨x.first, x.last, true⟩) ∨
          (s.map.w < c.stop ∧ r = ⟨max c.start s.map.w, c.stop - 1, true⟩)) := by
  unfold blindRejecters
  cases s.recipes.current.policy with
  | pass => simp
  | cull =>
    have htail : ∀ x : Rejecter, r ∈ (if s.map.w < c.stop then [x] else []) ↔ s.map.w < c.stop ∧ r = x := by
      intro x
      split
      next hlt => exact List.mem_singleton.trans (and_iff_right hlt).symm
      next hge => exact ⟨fun hr => (nomatch hr), fun hr => absurd hr.1 hge⟩
    simp only [List.mem_append, htail, State.spansMeeting, List.mem_map, List.mem_filter, alongMeets_iff, true_and, and_assoc,
      eq_comm (a := r)]

theorem mem_rejecters (s : State) (c : Candidate) (r : Rejecter) :
    r ∈ rejecters s c ↔ r ∈ mappedRejecters s c ∨ r ∈ openRejecters s c ∨ r ∈ blindRejecters s c := by
  rw [rejecters, List.mem_append, List.mem_append, or_assoc]

/-- A rejecter starts before the end of the candidate, or where the candidate starts. -/
theorem rejecter_starts {s : State} {c : Candidate} {r : Rejecter} (h : r ∈ rejecters s c) :
    r.first < c.stop ∨ r.first = c.start := by
  rcases (mem_rejecters s c r).mp h with hmapped | hopen | hblind
  · obtain ⟨f, -, ⟨-, ⟨hstop, -⟩, -⟩, rfl⟩ := (mem_mappedRejecters s c r).mp hmapped
    exact .inl hstop
  · obtain ⟨x, -, ⟨j, -, -, ⟨hstop, -⟩, -⟩, rfl⟩ := (mem_openRejecters s c r).mp hopen
    exact .inl hstop
  · obtain ⟨-, ⟨x, -, ⟨hstop, -⟩, rfl⟩ | ⟨hw, rfl⟩⟩ := (mem_blindRejecters s c r).mp hblind
    · exact .inl hstop
    · show max c.start s.map.w < c.stop ∨ max c.start s.map.w = c.start
      omega

/-! ## The row that is committed -/

/-- No rejecter of the candidate meets the row that is decided, which lies within the candidate. -/
theorem productRow_meets_none {s : State} {c : ProductCourse}
    (hkind : (productRow s c).kind = .product ∨ (productRow s c).kind = .short) :
    (productRow s c).stop ≤ s.planner.s + c.lp ∧
      ∀ r ∈ rejecters s ⟨s.planner.s, s.planner.s + c.lp, s.production.patterns[c.pattern], c.grade⟩,
        ¬(r.first < (productRow s c).stop ∧ s.planner.s ≤ r.last) := by
  by_cases hcolumns : s.production.patterns[c.pattern] = []
  · rw [productRow_of_undefined hcolumns] at hkind
    rcases hkind with hkind | hkind <;> cases hkind
  · cases hfound : rejecters s ⟨s.planner.s, s.planner.s + c.lp, s.production.patterns[c.pattern], c.grade⟩ with
    | nil =>
      rw [productRow_of_clear hcolumns hfound]
      exact ⟨Nat.le_refl _, fun r hr => nomatch hr⟩
    | cons r rs =>
      cases hfits : shortFits c s.planner.s (max s.planner.s (firstStart r rs)) (r :: rs) with
      | none =>
        rw [productRow_of_chain hcolumns hfound hfits] at hkind
        rcases hkind with hkind | hkind <;> cases hkind
      | some length =>
        rw [productRow_of_fits hcolumns hfound hfits]
        obtain ⟨-, hroom, hnone⟩ := shortFits_spec hfits
        have hstarts := rejecter_starts (hfound ▸ List.mem_cons_self : r ∈ rejecters s _)
        have hfirst := firstStart_le r List.mem_cons_self (rs := rs)
        refine ⟨?_, fun x hx hmeets => ?_⟩
        · show s.planner.s + length ≤ s.planner.s + c.lp
          simp only at hstarts
          omega
        · exact Bool.false_ne_true ((hnone x hx).symm.trans (alongMeets_iff.mpr hmeets))

/-- What is known to reject the candidate does not meet the row decided on it. -/
theorem not_rejects_of_committed {s : State} {c : ProductCourse}
    (hkind : (productRow s c).kind = .product ∨ (productRow s c).kind = .short) {cls : FlawClass} {first last xMin xMax : Nat}
    (hclass : (rejectClass c.grade s.recipes.current.limits.nb).code ≤ cls.code) (hstop : first < (productRow s c).stop)
    (hstart : s.planner.s ≤ last) {a : Across} (ha : a ∈ s.production.patterns[c.pattern])
    (hacross : xMin < a.xr ∧ a.xl ≤ xMax) {blind : Bool}
    (hmem : Rejects s ⟨s.planner.s, s.planner.s + c.lp, s.production.patterns[c.pattern], c.grade⟩ cls first last xMin xMax →
      (⟨first, last, blind⟩ : Rejecter) ∈
        rejecters s ⟨s.planner.s, s.planner.s + c.lp, s.production.patterns[c.pattern], c.grade⟩) : False := by
  obtain ⟨hwithin, hnone⟩ := productRow_meets_none hkind
  exact hnone _ (hmem ⟨hclass, ⟨Nat.lt_of_lt_of_le hstop hwithin, hstart⟩, a, ha, hacross⟩) ⟨hstop, hstart⟩

/-- Settles O34. -/
theorem noKnownRejecterInACommittedRow : Obligations.NoKnownRejecterInACommittedRow := by
  refine ⟨fun i s t c row h hcourse hexec hrows hkind => ?_, fun nb => ⟨rfl, fun h => ?_, fun h => ?_, rfl⟩,
    fun s c r => ?_⟩
  · intro columns bound
    have ht := Host.Outcome.next.inj ((exec_completes h hcourse).symm.trans hexec)
    have hrow : (productRow s c).row s.planner.nextRowId s.planner.s = row := by
      rw [← ht, setRisenLevels_planner, (commitRow_spec _ s).1] at hrows
      exact List.singleton_inj.mp (List.append_cancel_left hrows)
    subst hrow
    refine ⟨fun f hf hclass hstop hstart a ha hacross => ?_, fun x hx j hj hclass hstop hstart a ha hacross => ?_⟩
    · exact not_rejects_of_committed hkind hclass hstop hstart ha hacross fun hr =>
        (mem_rejecters s _ _).mpr (.inl ((mem_mappedRejecters s _ _).mpr ⟨f, hf, hr, rfl⟩))
    · exact not_rejects_of_committed hkind hclass hstop hstart ha hacross fun hr =>
        (mem_rejecters s _ _).mpr (.inr (.inl ((mem_openRejecters s _ _).mpr ⟨x, hx, ⟨j, hj, hr⟩, rfl⟩)))
  · exact if_pos h
  · exact if_neg (Nat.ne_of_gt h)
  · intro bound along across culls
    rw [mem_rejecters, mem_mappedRejecters, mem_openRejecters, mem_blindRejecters, and_or_left]
    refine or_congr (exists_congr fun f => and_congr_right fun _ => ?_)
      (or_congr (exists_congr fun x => and_congr_right fun _ => ?_) Iff.rfl)
    · exact ⟨fun ⟨⟨hclass, halong, hacross⟩, hr⟩ => ⟨hclass, halong, hacross, hr⟩,
        fun ⟨hclass, halong, hacross, hr⟩ => ⟨⟨hclass, halong, hacross⟩, hr⟩⟩
    · exact ⟨fun ⟨⟨j, hj, hclass, halong, hacross⟩, hr⟩ => ⟨j, hj, hclass, halong, hacross, hr⟩,
        fun ⟨j, hj, hclass, halong, hacross, hr⟩ => ⟨⟨j, hj, hclass, halong, hacross⟩, hr⟩⟩

end Sys2Proof.Proofs.Rejecting
end

section
/-!
The grader: the grade of a plate, an order plate's accounting step, and a piece that goes to the cullet (chapter 9).
-/

namespace Sys2Proof.Proofs.Grading

open Sys2Proof Sys2Proof.Machine Sys2Proof.Proofs.Frames Sys2Proof.Proofs.Blocks Sys2Proof.Proofs.Judging
  Sys2Proof.Proofs.Accepted

/-- Settles O42: the branches of the grade in their order. -/
theorem gradeAndDensityOfAPlate : Obligations.GradeAndDensityOfAPlate := by
  intro g critical major dens sum area unverified
  have hverified : (!unverified) = true ↔ unverified = false := by simp
  unfold gradeOf
  simp only [hverified]
  refine ⟨fun hcritical => if_pos hcritical, fun hcritical hmajor hdens hflag => ?_, fun hcritical hnot hmajor hdens => ?_,
    fun hcritical hnot hbeyond => ?_, rfl⟩
  · rw [if_neg (by omega), if_pos ⟨hmajor, hdens, hflag⟩]
  · rw [if_neg (by omega), if_neg hnot, if_pos ⟨hmajor, hdens⟩]
  · rw [if_neg (by omega), if_neg hnot, if_neg hbeyond]

/-! ## An order plate's accounting step (R97, R164) -/

section
variable {s : State} {id : Nat} {o : Order} (ho : s.production.order id = some o)
include ho

theorem accountPlate_of_order (delivers : Bool) :
    accountPlate id delivers s =
      let t : State := { s with production := s.production.updateOrder id (Order.step delivers) }
      if o.state = .opened ∧ (o.step delivers).state = .filled then raise .filled t else t := by
  simp only [accountPlate, ho]

theorem accountPlate_production (delivers : Bool) :
    (accountPlate id delivers s).production = s.production.updateOrder id (Order.step delivers) := by
  rw [accountPlate_of_order ho]
  simp only
  split <;> rfl

end

theorem step_eq (o : Order) (delivers : Bool) :
    let delivered := if delivers then o.delivered + 1 else o.delivered
    o.step delivers =
      { o with
        inFlight := o.inFlight - 1
        delivered := delivered
        state := if delivers = true ∧ o.state = .opened ∧ delivered = o.wanted then .filled else o.state } := by
  simp only [Order.step, Bool.and_eq_true, beq_iff_eq, and_assoc]

/-- Settles O43. -/
theorem orderPlateIsAccounted : Obligations.OrderPlateIsAccounted := by
  intro s id o delivers ho delivered fills t
  have hproduction : t.production = s.production.updateOrder id (Order.step delivers) := accountPlate_production ho delivers
  obtain ⟨hid, hothers⟩ := updateOrder_order (f := Order.step delivers) (fun _ => rfl) ho
  rw [← hproduction] at hid hothers
  have ht := accountPlate_of_order ho delivers
  have hstep : ∀ state, (if fills then OrderState.filled else o.state) = state →
      o.step delivers = { o with inFlight := o.inFlight - 1, delivered := delivered, state := state } := fun state hstate =>
    hstate ▸ step_eq o delivers
  refine ⟨fun hfills => ?_, fun hnot => ?_, hothers⟩
  · have hfilled := hstep .filled (if_pos hfills)
    exact ⟨hid.trans (congrArg some hfilled), congrArg State.links (ht.trans (if_pos ⟨hfills.2.1, by rw [hfilled]⟩))⟩
  · have hsame := hstep o.state (if_neg hnot)
    have hstays : ¬(o.state = .opened ∧ (o.step delivers).state = .filled) := by
      rw [hsame]
      rintro ⟨hopen, hfilled⟩
      exact absurd (hopen.symm.trans hfilled) (by decide)
    exact ⟨hid.trans (congrArg some hsame), (congrArg State.links (ht.trans (if_neg hstays)) :)⟩

/-! ## The routing list (R148) -/

section
variable (e : RouteEntry) (s : State)

/-- An entry is the newest of the list, and the oldest entry of a full list is lost unread. -/
theorem appendRoute_eq :
    appendRoute e s =
      if s.dispatcher.routing.length < 32 then
        { s with dispatcher := { s.dispatcher with routing := s.dispatcher.routing ++ [e] } }
      else
        raise .routeLost
          { s with
            dispatcher :=
              { s.dispatcher with
                routing := s.dispatcher.routing.drop 1 ++ [e], routeLost := bump s.dispatcher.routeLost }
            accounts :=
              { s.accounts with
                counts := { s.accounts.counts with routeLost := bump s.accounts.counts.routeLost } } } := rfl

theorem appendRoute_of_room (h : s.dispatcher.routing.length < 32) :
    appendRoute e s = { s with dispatcher := { s.dispatcher with routing := s.dispatcher.routing ++ [e] } } :=
  (appendRoute_eq e s).trans (if_pos h)

theorem appendRoute_of_full (h : 32 ≤ s.dispatcher.routing.length) :
    appendRoute e s =
      raise .routeLost
        { s with
          dispatcher :=
            { s.dispatcher with
              routing := s.dispatcher.routing.drop 1 ++ [e], routeLost := bump s.dispatcher.routeLost }
          accounts :=
            { s.accounts with counts := { s.accounts.counts with routeLost := bump s.accounts.counts.routeLost } } } :=
  (appendRoute_eq e s).trans (if_neg (Nat.not_lt.mpr h))

theorem appendRoute_dispatcher_eq :
    (appendRoute e s).dispatcher =
      { s.dispatcher with
        routing := (if 32 ≤ s.dispatcher.routing.length then s.dispatcher.routing.drop 1 else s.dispatcher.routing) ++ [e]
        routeLost :=
          if 32 ≤ s.dispatcher.routing.length then bump s.dispatcher.routeLost else s.dispatcher.routeLost } := by
  by_cases hfull : 32 ≤ s.dispatcher.routing.length
  · rw [appendRoute_of_full e s hfull, if_pos hfull, if_pos hfull]
    rfl
  · rw [appendRoute_of_room e s (Nat.not_le.mp hfull), if_neg hfull, if_neg hfull]

theorem appendRoute_accounts_eq :
    (appendRoute e s).accounts =
      { s.accounts with
        counts :=
          { s.accounts.counts with
            routeLost :=
              if 32 ≤ s.dispatcher.routing.length then bump s.accounts.counts.routeLost
              else s.accounts.counts.routeLost } } := by
  by_cases hfull : 32 ≤ s.dispatcher.routing.length
  · rw [appendRoute_of_full e s hfull, if_pos hfull]
    rfl
  · rw [appendRoute_of_room e s (Nat.not_le.mp hfull), if_neg hfull]

theorem appendRoute_links_eq :
    (appendRoute e s).links =
      { s.links with
        cutter :=
          { s.links.cutter with
            flags := s.links.cutter.flags ||| (if 32 ≤ s.dispatcher.routing.length then 16 else 0) } } := by
  by_cases hfull : 32 ≤ s.dispatcher.routing.length
  · rw [appendRoute_of_full e s hfull, if_pos hfull]
    rfl
  · rw [appendRoute_of_room e s (Nat.not_le.mp hfull), if_neg hfull]
    simp

end

/-! ## The piece in process (R153) -/

theorem exec_pieceTake {s : State} (h : Working s) {p : Piece} {rest : List Piece} (hidle : s.grader.closing = none)
    (hqueue : s.grader.queue = p :: rest) :
    exec .pieceTake s = .next { s with grader := { s.grader with queue := rest, closing := some (closingOf p s) } } := by
  have htaken : takePiece s = { s with grader := { s.grader with queue := rest, closing := some (closingOf p s) } } := by
    simp only [takePiece, hidle, hqueue]
  rw [← htaken]
  exact blockStep_changes h (by rw [htaken]) (by rw [htaken]) (by rw [htaken]) (by rw [htaken])

theorem closingOf_of_row {p : Piece} {s : State} {r : Row} (h : p.row.bind s.planner.row = some r) :
    closingOf p s =
      { piece := p
        order := r.order
        k := r.k
        orderPlates := r.orderPlates
        unverified := r.unverified
        forced := r.forced
        columns := match r.pattern with
          | some i => s.production.patterns[i]
          | none => []
        netZone := s.conf.netZone
        cleared := false } := by
  simp only [closingOf, h] <;> rfl

theorem closingOf_of_none {p : Piece} {s : State} (h : p.row.bind s.planner.row = none) :
    closingOf p s = ⟨p, none, 0, 0, false, false, [], s.conf.netZone, false⟩ := by
  simp only [closingOf, h]

/-! ## A piece that goes to the cullet (R156) -/

theorem piece_length_eq (p : Piece) :
    p.length = match p.start with
      | some a => p.stop - a
      | none => 0 := by
  unfold Piece.length
  cases p.start <;> rfl

theorem isPlates_of_cullet {k : PieceKind} (h : k = .cull ∨ k = .head ∨ k = .merged) : k.isPlates = false := by
  rcases h with rfl | rfl | rfl <;> rfl

theorem exec_cullPieceClose {s : State} (h : Working s) {c : Closing} (hclosing : s.grader.closing = some c)
    (hkind : c.piece.kind.isPlates = false) : exec .cullPieceClose s = .next (setRisenLevels s (closeCull c s)) := by
  have hclosed : cullClosing s = closeCull c s := by
    simp only [cullClosing, hclosing]
    exact if_neg (by rw [hkind]; exact Bool.false_ne_true)
  show blockStep cullClosing s = _
  rw [blockStep_of_working h, hclosed]

/-- The one routing entry of a piece that goes to the cullet. -/
def culletEntry (c : Closing) (s : State) : RouteEntry :=
  ⟨c.piece.seq, c.piece.kind, 0, s.conf.dest[DestItem.cullet.slot], none, 0⟩

theorem closeCull_dispatcher_eq (c : Closing) (s : State) :
    (closeCull c s).dispatcher = (appendRoute (culletEntry c s) s).dispatcher := closed_dispatcher c _

theorem closeCull_links (c : Closing) (s : State) : (closeCull c s).links = (appendRoute (culletEntry c s) s).links :=
  (congrArg State.links (closed_frame c _) :)

theorem closeCull_accounts (c : Closing) (s : State) :
    (closeCull c s).accounts =
      ((appendRoute (culletEntry c s) s).count (Counts.addCull c.piece.length)).accounts.addTotalArea
        (c.piece.length * c.netZone.width) := closed_accounts c _

/-- An area carried into a count that has not saturated, and one that has. -/
theorem carryArea_eq (count rem area : Nat) :
    carryArea count rem area =
      (if count = 4294967295 then count else min 4294967295 (count + (rem + area) / 10000),
        if count = 4294967295 then rem else (rem + area) % 10000) := by
  by_cases hfull : count = 4294967295
  · rw [if_pos hfull, if_pos hfull]
    exact if_pos hfull
  · rw [if_neg hfull, if_neg hfull]
    exact if_neg hfull

/-- The row of a closed piece leaves the table, unless a line clear took it (R118, R155). -/
theorem removed_planner {c : Closing} {s t : State}
    (h : t.planner =
      if c.cleared then s.planner else { s.planner with rows := rowsAfter c.piece.row s.planner.rows }) :
    (∀ id, c.piece.row = some id → c.cleared = false →
        t.planner = { s.planner with rows := removeRow id s.planner.rows }) ∧
      (c.piece.row = none ∨ c.cleared = true → t.planner = s.planner) := by
  refine ⟨fun id hrow hstays => ?_, fun hgone => ?_⟩
  · rw [h, if_neg (by rw [hstays]; exact Bool.false_ne_true), hrow]
    rfl
  · rw [h]
    rcases hgone with hrow | hcleared
    · rw [hrow]
      exact ite_self _
    · exact if_pos hcleared

theorem or_no_flag (x : BitVec 8) : x ||| 0 = x := BitVec.or_zero

/-- An event that leaves the cut queue can let ROUTE and STARVED rise. -/
theorem setRisenLevels_links_of_cuts {old new : State} (hcuts : new.dispatcher.cuts = old.dispatcher.cuts) :
    (setRisenLevels old new).links =
      { new.links with
        cutter :=
          { new.links.cutter with
            flags :=
              new.links.cutter.flags |||
                (if old.dispatcher.routing = [] ∧ new.dispatcher.routing ≠ [] then 8 else 0) }
        supervisor :=
          { new.links.supervisor with
            flags :=
              new.links.supervisor.flags ||| (if old.starved = false ∧ new.starved = true then 2 else 0) } } := by
  have hready : ¬(old.ready = false ∧ new.ready = true) := by
    unfold State.ready
    rw [hcuts]
    rintro ⟨hfalse, htrue⟩
    exact Bool.false_ne_true (hfalse.symm.trans htrue)
  have hrises : (old.routeWaiting = false ∧ new.routeWaiting = true) ↔
      (old.dispatcher.routing = [] ∧ new.dispatcher.routing ≠ []) := by
    unfold State.routeWaiting
    simp
  rw [setRisenLevels_links]
  simp only [if_neg hready, hrises, or_no_flag]

/-- Settles O40. -/
theorem cullPieceGoesToTheCullet : Obligations.CullPieceGoesToTheCullet := by
  refine fun s h => ⟨fun p rest hidle hqueue => ?_, fun c hclosing hkind => ?_⟩
  · intro takes
    have htakes : takes (closingOf p s) := exec_pieceTake h hidle hqueue
    refine ⟨fun id r hrow hfound => ?_, fun hnone => ?_⟩
    · exact closingOf_of_row (p := p) (s := s) (by rw [hrow]; exact hfound) ▸ htakes
    · refine closingOf_of_none (p := p) (s := s) ?_ ▸ htakes
      cases hrow : p.row with
      | none => rfl
      | some id => exact hnone id hrow
  · intro length edge counts routing overwrites up sum full
    have hlength : c.piece.length = length := piece_length_eq c.piece
    have hdispatcher := (closeCull_dispatcher_eq c s).trans (appendRoute_dispatcher_eq (culletEntry c s) s)
    have hcuts : (closeCull c s).dispatcher.cuts = s.dispatcher.cuts := (congrArg Dispatcher.cuts hdispatcher :)
    have hplanner := removed_planner ((setRisenLevels_planner s (closeCull c s)).trans (closeCull_planner c s))
    refine ⟨_, exec_cullPieceClose h hclosing (isPlates_of_cullet hkind), ?_, ?_, ?_, ?_, ?_, ?_, ?_, ?_⟩
    · rw [setRisenLevels_dispatcher, hdispatcher]
      rfl
    · rw [setRisenLevels_accounts, closeCull_accounts, hlength]
      show ({ (appendRoute (culletEntry c s) s).accounts with counts := _ } : Accounts).addTotalArea _ = _
      unfold Accounts.addTotalArea
      simp only [appendRoute_accounts_eq, carryArea_eq, Counts.addCull]
      rfl
    · have hstarved : ¬(s.starved = false ∧ (closeCull c s).starved = true) := by
        unfold State.starved
        rw [closeCull_mode, closeCull_production]
        rintro ⟨hfalse, htrue⟩
        exact Bool.false_ne_true (hfalse.symm.trans htrue)
      have hroute : (s.dispatcher.routing = [] ∧ (closeCull c s).dispatcher.routing ≠ []) ↔ routing = [] :=
        and_iff_left (by rw [hdispatcher]; exact List.append_ne_nil_of_right_ne_nil _ (List.cons_ne_nil _ _))
      rw [setRisenLevels_links_of_cuts hcuts]
      simp only [if_neg hstarved, hroute, or_no_flag, closeCull_links, appendRoute_links_eq]
      rfl
    · rw [setRisenLevels_grader, closeCull_grader]
    · rw [setRisenLevels_map, closeCull_map]
      rfl
    · exact hplanner.1
    · exact hplanner.2
    · exact (congrArg
        (fun t : State =>
          { t with
            dispatcher := s.dispatcher, accounts := s.accounts, links := s.links, grader := s.grader, map := s.map
            planner := s.planner })
        (setRisenLevels_frame s (closeCull c s)) :).trans (closeCull_frame c s)

end Sys2Proof.Proofs.Grading
end

section
/-!
The plates a closed piece is divided into: their ids, their entries and their orders' accounting steps (R157 to R166).
-/

namespace Sys2Proof.Proofs.Forming

open Sys2Proof Sys2Proof.Machine Sys2Proof.Proofs.Frames

/-! ## The ids of the plates (R165) -/

/-- The grader's ids after so many plates. -/
def idsTaken (k : Nat) (g : Grader) : Grader :=
  { g with
    nextPlate := (g.nextPlate - 1 + k) % 65535 + 1
    wrapped := g.wrapped || decide (65535 < g.nextPlate + k) }

theorem idsTaken_zero {g : Grader} (hlow : 1 ≤ g.nextPlate) (hhigh : g.nextPlate ≤ 65535) : idsTaken 0 g = g := by
  have hid : (g.nextPlate - 1 + 0) % 65535 + 1 = g.nextPlate := by omega
  have hwrapped : (g.wrapped || decide (65535 < g.nextPlate + 0)) = g.wrapped := by
    rw [decide_eq_false (by omega), Bool.or_false]
  unfold idsTaken
  rw [hid, hwrapped]

/-- One plate takes the next id, and the last id before the first is marked (R165). -/
theorem takePlateId_idsTaken {g : Grader} (hlow : 1 ≤ g.nextPlate) (hhigh : g.nextPlate ≤ 65535) (k : Nat) :
    takePlateId (idsTaken k g) = idsTaken (k + 1) g := by
  have hid : wrapSuccOne ((g.nextPlate - 1 + k) % 65535 + 1) = (g.nextPlate - 1 + (k + 1)) % 65535 + 1 := by
    unfold wrapSuccOne Config.countMax
    split <;> omega
  have hwrapped : (g.wrapped || decide (65535 < g.nextPlate + k) || (g.nextPlate - 1 + k) % 65535 + 1 == 65535) =
      (g.wrapped || decide (65535 < g.nextPlate + (k + 1))) := by
    rw [Bool.or_assoc]
    refine congrArg (g.wrapped || ·) (Bool.eq_iff_iff.mpr ?_)
    simp only [Bool.or_eq_true, decide_eq_true_eq, beq_iff_eq]
    omega
  unfold takePlateId idsTaken
  simp only [hid, hwrapped]

/-! ## A plate does not depend on the plates before it -/

/-- What a plate's destination reads of its order. -/
def orderTerms (p : Production) (id : Nat) : Option (Grade × Nat) := (p.order id).map fun o => (o.grade, o.stacker)

theorem orderTerms_accountPlate (id : Nat) (delivers : Bool) (s : State) (other : Nat) :
    orderTerms (accountPlate id delivers s).production other = orderTerms s.production other := by
  cases ho : s.production.order id with
  | none =>
    have hsame : accountPlate id delivers s = s := by simp only [accountPlate, ho]
    rw [hsame]
  | some o =>
    have hproduction : (accountPlate id delivers s).production = s.production.updateOrder id (Order.step delivers) :=
      Grading.accountPlate_production ho delivers
    obtain ⟨hid, hothers⟩ := updateOrder_order (f := Order.step delivers) (fun _ => rfl) ho
    rw [hproduction]
    unfold orderTerms
    by_cases hother : other = id
    · rw [hother, hid, ho]
      rfl
    · rw [hothers other hother]

theorem destinationOf_congr (dest : Vector Nat 8) (role : Role) (g : Grade) {x y : Option Order}
    (h : x.map (fun o => (o.grade, o.stacker)) = y.map fun o => (o.grade, o.stacker)) :
    destinationOf dest role g x = destinationOf dest role g y := by
  cases x with
  | none =>
    cases y with
    | none => rfl
    | some y => cases h
  | some x =>
    cases y with
    | none => cases h
    | some y =>
      obtain ⟨hgrade, hstacker⟩ : x.grade = y.grade ∧ x.stacker = y.stacker := by simpa using h
      cases role <;> simp only [destinationOf, hgrade, hstacker]

/-- The parts of `u` that a plate's entry reads are those of `s`, but for the next id. -/
structure JudgesAs (s u : State) : Prop where
  blocks : { u with grader := s.grader, production := s.production, links := s.links } = s
  terms : ∀ id, orderTerms u.production id = orderTerms s.production id

theorem plateEntry_of_judgesAs {s u : State} (h : JudgesAs s u) (c : Closing) (b : Blank) :
    plateEntry c b u = ({ (plateEntry c b s).1 with id := u.grader.nextPlate }, (plateEntry c b s).2) := by
  have hdest : ∀ g, destinationOf u.conf.dest b.role g (c.order.bind u.production.order) =
      destinationOf s.conf.dest b.role g (c.order.bind s.production.order) := by
    intro g
    rw [show u.conf = s.conf from (congrArg State.conf h.blocks :)]
    refine destinationOf_congr _ _ _ ?_
    cases c.order with
    | none => rfl
    | some id => exact h.terms id
  have hmap : u.map = s.map := (congrArg State.map h.blocks :)
  have hrecipes : u.recipes = s.recipes := (congrArg State.recipes h.blocks :)
  have haccounts : u.accounts = s.accounts := (congrArg State.accounts h.blocks :)
  simp only [plateEntry, hdest, hmap, hrecipes, haccounts]

/-! ## The plates of a piece -/

/-- The plate number `k` of a piece, as its close finds it. -/
def plateOf (c : Closing) (s : State) (b : Blank) (k : Nat) : Plate :=
  ⟨{ (plateEntry c b s).1 with id := (s.grader.nextPlate - 1 + k) % 65535 + 1 }, (plateEntry c b s).2⟩

/-- The accounting step a plate makes. -/
def accounted (c : Closing) (s : State) (p : Plate) : State :=
  match c.order with
  | some id =>
    if !p.entry.surplus && !p.entry.short && !p.entry.sample then accountPlate id (p.cls == .order) s else s
  | none => s

/-- `u` is the part with `k` plates formed, and `v` that with their accounting steps alone. -/
structure FormedAs (s u v : State) (k : Nat) : Prop where
  judges : JudgesAs s u
  grader : u.grader = idsTaken k s.grader
  production : u.production = v.production
  links : u.links = v.links

theorem accounted_of_order {c : Closing} {id : Nat} (horder : c.order = some id) {b : Blank} (hrole : b.role = .order)
    (s v : State) (k : Nat) :
    accounted c v (plateOf c s b k) = accountPlate id ((plateEntry c b s).2 == .order) v := by
  have hentry : (!(plateEntry c b s).1.surplus && !(plateEntry c b s).1.short && !(plateEntry c b s).1.sample) = true := by
    simp [plateEntry, hrole]
  simp only [accounted, horder]
  exact if_pos hentry

theorem accounted_of_other {c : Closing} {b : Blank} (h : c.order = none ∨ b.role ≠ .order) (s v : State) (k : Nat) :
    accounted c v (plateOf c s b k) = v := by
  unfold accounted
  split
  next id horder =>
    have hrole : b.role ≠ .order := h.resolve_left (by rw [horder]; exact Option.some_ne_none id)
    have hentry : ¬(!(plateEntry c b s).1.surplus && !(plateEntry c b s).1.short && !(plateEntry c b s).1.sample) = true := by
      cases hb : b.role <;> simp_all [plateEntry]
    exact if_neg hentry
  next => rfl

theorem formPlate_of_order {c : Closing} {id : Nat} (horder : c.order = some id) {b : Blank} (hrole : b.role = .order)
    (acc : State × List Plate) :
    formPlate c acc b =
      (accountPlate id ((plateEntry c b acc.1).2 == .order) { acc.1 with grader := takePlateId acc.1.grader },
        acc.2 ++ [⟨(plateEntry c b acc.1).1, (plateEntry c b acc.1).2⟩]) := by
  simp only [formPlate, hrole, horder]

theorem formPlate_of_other {c : Closing} {b : Blank} (h : c.order = none ∨ b.role ≠ .order) (acc : State × List Plate) :
    formPlate c acc b =
      ({ acc.1 with grader := takePlateId acc.1.grader },
        acc.2 ++ [⟨(plateEntry c b acc.1).1, (plateEntry c b acc.1).2⟩]) := by
  unfold formPlate
  simp only
  split
  next id hrole horder =>
    rcases h with hnone | hother
    · rw [hnone] at horder
      cases horder
    · exact absurd hrole hother
  next => rfl

theorem accountPlate_congr {u v : State} (hproduction : u.production = v.production) (hlinks : u.links = v.links) (id : Nat)
    (delivers : Bool) :
    (accountPlate id delivers u).production = (accountPlate id delivers v).production ∧
      (accountPlate id delivers u).links = (accountPlate id delivers v).links := by
  unfold accountPlate
  rw [hproduction]
  cases v.production.order id with
  | none => exact ⟨hproduction, hlinks⟩
  | some o =>
    simp only
    split
    · exact ⟨rfl, by simp only [raise, State.setLink, State.link, hlinks]⟩
    · exact ⟨rfl, hlinks⟩

/-- One plate formed. -/
theorem formPlate_formedAs {c : Closing} {s u v : State} {k : Nat} (h : FormedAs s u v k) (hlow : 1 ≤ s.grader.nextPlate)
    (hhigh : s.grader.nextPlate ≤ 65535) (ps : List Plate) (b : Blank) :
    (formPlate c (u, ps) b).2 = ps ++ [plateOf c s b k] ∧
      FormedAs s (formPlate c (u, ps) b).1 (accounted c v (plateOf c s b k)) (k + 1) := by
  have hentry := plateEntry_of_judgesAs h.judges c b
  have hplate : (⟨(plateEntry c b u).1, (plateEntry c b u).2⟩ : Plate) = plateOf c s b k := by
    rw [hentry, h.grader]
    rfl
  have hids : takePlateId u.grader = idsTaken (k + 1) s.grader := by
    rw [h.grader]
    exact takePlateId_idsTaken hlow hhigh k
  by_cases hrole : b.role = .order
  · cases horder : c.order with
    | none =>
      rw [formPlate_of_other (.inl horder), accounted_of_other (.inl horder), hplate]
      exact ⟨rfl, ⟨h.judges.blocks, h.judges.terms⟩, hids, h.production, h.links⟩
    | some id =>
      have hcls : (plateEntry c b u).2 = (plateEntry c b s).2 := (congrArg Prod.snd hentry :)
      rw [formPlate_of_order horder hrole, accounted_of_order horder hrole, hplate, hcls]
      have hframe := accountPlate_frame id ((plateEntry c b s).2 == .order) { u with grader := takePlateId u.grader }
      obtain ⟨hproduction, hlinks⟩ := accountPlate_congr (u := { u with grader := takePlateId u.grader }) h.production h.links
        id ((plateEntry c b s).2 == .order)
      refine ⟨rfl, ⟨?_, fun other => ?_⟩, (congrArg State.grader hframe :).trans hids, hproduction, hlinks⟩
      · exact (congrArg (fun t : State => { t with grader := s.grader, production := s.production, links := s.links }) hframe
          :).trans h.judges.blocks
      · exact (orderTerms_accountPlate _ _ _ _).trans (h.judges.terms other)
  · rw [formPlate_of_other (.inr hrole), accounted_of_other (.inr hrole), hplate]
    exact ⟨rfl, ⟨h.judges.blocks, h.judges.terms⟩, hids, h.production, h.links⟩

/-- The plates of these columns, numbered from `k` on. -/
def platesOf (c : Closing) (s : State) (bs : List Blank) (k : Nat) : List Plate :=
  (bs.zipIdx k).map fun x => plateOf c s x.1 x.2

theorem formed_formedAs {c : Closing} {s : State} (hlow : 1 ≤ s.grader.nextPlate) (hhigh : s.grader.nextPlate ≤ 65535)
    (bs : List Blank) :
    ∀ {u v : State} {k : Nat} (ps : List Plate), FormedAs s u v k →
      (bs.foldl (formPlate c) (u, ps)).2 = ps ++ platesOf c s bs k ∧
        FormedAs s (bs.foldl (formPlate c) (u, ps)).1 ((platesOf c s bs k).foldl (accounted c) v) (k + bs.length) := by
  induction bs with
  | nil => exact fun ps h => ⟨(List.append_nil ps).symm, h⟩
  | cons b bs ih =>
    intro u v k ps h
    obtain ⟨hplates, hformed⟩ := formPlate_formedAs (c := c) h hlow hhigh ps b
    obtain ⟨hrest, hall⟩ := ih (formPlate c (u, ps) b).2 hformed
    have hlist : platesOf c s (b :: bs) k = plateOf c s b k :: platesOf c s bs (k + 1) := rfl
    rw [hlist, List.foldl_cons, List.foldl_cons, List.length_cons]
    refine ⟨hrest.trans ?_, by rw [show k + (bs.length + 1) = k + 1 + bs.length by omega]; exact hall⟩
    rw [hplates, List.append_assoc]
    rfl

/-- The plates of a piece, and what forming them leaves. -/
theorem formed_eq {c : Closing} {s : State} (hlow : 1 ≤ s.grader.nextPlate) (hhigh : s.grader.nextPlate ≤ 65535) :
    (formed c s).2 = platesOf c s c.blanks 0 ∧
      FormedAs s (formed c s).1 ((platesOf c s c.blanks 0).foldl (accounted c) s) c.blanks.length := by
  have hstart : FormedAs s s s 0 := ⟨⟨rfl, fun _ => rfl⟩, (idsTaken_zero hlow hhigh).symm, rfl, rfl⟩
  have hall := formed_formedAs (c := c) hlow hhigh c.blanks [] hstart
  rw [Nat.zero_add] at hall
  exact hall

end Sys2Proof.Proofs.Forming
end

section
/-!
What a plate's entry says of it (R157 to R167).
-/

namespace Sys2Proof.Proofs.PlateFacts

open Sys2Proof Sys2Proof.Machine Sys2Proof.Proofs.Frames Sys2Proof.Proofs.Forming

/-! ## The plates a piece is divided into (R157) -/

/-- The columns of a piece's plates: a sample is one plate of the net zone. -/
def plateColumns (c : Closing) : List Across :=
  match c.piece.kind with
  | .sample => [c.netZone]
  | _ => c.columns

/-- The plate of a column. -/
def blankAt (c : Closing) (a : Across) (i : Nat) : Blank := ⟨i, c.roleAt i, c.piece.start.getD 0, c.piece.stop, a⟩

theorem blanks_eq (c : Closing) : c.blanks = (plateColumns c).zipIdx.map fun x => blankAt c x.1 x.2 := by
  unfold Closing.blanks plateColumns
  cases c.piece.kind <;> rfl

theorem platesOf_length (c : Closing) (s : State) (bs : List Blank) (k : Nat) : (platesOf c s bs k).length = bs.length := by
  rw [platesOf, List.length_map, List.length_zipIdx]

theorem platesOf_getElem? {c : Closing} {s : State} {bs : List Blank} {i : Nat} {p : Plate}
    (h : (platesOf c s bs 0)[i]? = some p) : ∃ b, bs[i]? = some b ∧ plateOf c s b i = p := by
  rw [platesOf, List.getElem?_map, List.getElem?_zipIdx, Option.map_map, Option.map_eq_some_iff] at h
  obtain ⟨b, hb, hp⟩ := h
  refine ⟨b, hb, ?_⟩
  rw [← hp, Function.comp_apply, Nat.zero_add]

theorem blanks_getElem? {c : Closing} {i : Nat} {a : Across} (h : (plateColumns c)[i]? = some a) :
    c.blanks[i]? = some (blankAt c a i) := by
  rw [blanks_eq, List.getElem?_map, List.getElem?_zipIdx, h]
  simp

theorem blanks_length (c : Closing) : c.blanks.length = (plateColumns c).length := by
  rw [blanks_eq, List.length_map, List.length_zipIdx]

/-- Every plate of a piece has the piece's extent along. -/
theorem extent_of_mem_platesOf {c : Closing} {s : State} {p : Plate} (h : p ∈ platesOf c s c.blanks 0) :
    p.entry.start = c.piece.start.getD 0 ∧ p.entry.stop = c.piece.stop := by
  obtain ⟨i, hi⟩ := List.getElem?_of_mem h
  obtain ⟨b, hb, rfl⟩ := platesOf_getElem? hi
  rw [blanks_eq] at hb
  obtain ⟨x, -, rfl⟩ := List.mem_map.mp (List.mem_of_getElem? hb)
  exact ⟨rfl, rfl⟩

/-! ## The role of a column (R128, R155, R157) -/

theorem roleAt_product {c : Closing} (h : c.piece.kind = .product) (i : Nat) :
    c.roleAt i = if c.cleared = false ∧ i < c.orderPlates then .order else .surplus := by
  simp only [Closing.roleAt, h, Bool.and_eq_true, Bool.not_eq_true', decide_eq_true_eq]

theorem roleAt_short {c : Closing} (h : c.piece.kind = .short) (i : Nat) : c.roleAt i = .short := by
  simp only [Closing.roleAt, h]

theorem roleAt_sample {c : Closing} (h : c.piece.kind = .sample) (i : Nat) : c.roleAt i = .sample := by
  simp only [Closing.roleAt, h]

/-! ## The flaws of a plate (R158, R167) -/

theorem flawsOf_eq (b : Blank) (flaws : List FlawRecord) :
    flawsOf b flaws =
      flaws.filter fun f =>
        f.firstRow < b.stop && b.start ≤ f.lastRow && f.xMin < b.across.xr && b.across.xl ≤ f.xMax :=
  List.filter_congr fun f _ => by simp only [alongMeets, acrossMeets, Bool.and_assoc]

/-- The flaw list is in order: most points first, and the smaller number among equals. -/
theorem listed_ordered (xs : List ListedFlaw) :
    (sortOrdered ListedFlaw.precedes xs).Pairwise fun x y =>
      y.points < x.points ∨ (x.points = y.points ∧ x.number ≤ y.number) := by
  have hprecedes : ∀ x y : ListedFlaw, x.precedes y = true ↔
      y.points < x.points ∨ (x.points = y.points ∧ x.number < y.number) := fun x y => by
    simp only [ListedFlaw.precedes, Bool.or_eq_true, Bool.and_eq_true, decide_eq_true_eq, beq_iff_eq]
  have hall : xs.Pairwise fun _ _ => True := List.pairwise_iff_getElem.mpr fun _ _ _ _ _ => trivial
  refine (sortOrdered_stable (fun a b hab => ?_) (fun a b c hab => ?_) hall).imp fun {x y} h => ?_
  · rw [hprecedes] at hab
    rw [← Bool.not_eq_true, hprecedes]
    omega
  · rw [hprecedes] at hab
    rw [hprecedes, hprecedes]
    omega
  · rcases h with hlt | ⟨hnot, -⟩
    · exact ((hprecedes x y).mp hlt).imp_right fun ⟨heq, hnumber⟩ => ⟨heq, Nat.le_of_lt hnumber⟩
    · rw [← Bool.not_eq_true, hprecedes] at hnot
      omega

/-! ## Where a plate goes (R163) -/

section
variable {dest : Vector Nat 8} {g : Grade} {o : Order}

theorem destinationOf_cullet {role : Role} (hrole : role ≠ .sample) (hg : g = .x) (order : Option Order) :
    destinationOf dest role g order = (dest[7], .cullet) := by
  subst hg
  cases role with
  | sample => exact absurd rfl hrole
  | order => rfl
  | surplus => rfl
  | short => rfl

theorem destinationOf_short (hg : g ≠ .x) (order : Option Order) : destinationOf dest .short g order = (dest[5], .short) :=
  if_neg hg

theorem destinationOf_surplus (hg : g ≠ .x) (order : Option Order) :
    destinationOf dest .surplus g order =
      (if g = .a then dest[0] else if g = .b then dest[1] else dest[2], .surplus) := by
  refine (if_neg hg).trans ?_
  cases g <;> rfl

/-- An order plate whose order is not in the list is surplus. -/
theorem destinationOf_order_none (hg : g ≠ .x) : destinationOf dest .order g none = destinationOf dest .surplus g none :=
  (if_neg hg).trans (if_neg hg).symm

theorem destinationOf_meets (hg : g ≠ .x) (hmeets : g.code ≤ o.grade.code) :
    destinationOf dest .order g (some o) = (o.stacker, .order) := by
  have hgood : g.meets o.grade = true := by simp [Grade.meets, hmeets, hg]
  exact (if_neg hg).trans (if_pos hgood)

theorem destinationOf_downgrade (hg : g ≠ .x) (hworse : o.grade.code < g.code) :
    destinationOf dest .order g (some o) = (if g = .b then dest[3] else dest[4], .downgrade) := by
  have hbad : ¬g.meets o.grade = true := by simp [Grade.meets, Nat.not_le.mpr hworse]
  refine (if_neg hg).trans ((if_neg hbad).trans ?_)
  cases g <;> rfl

end

end Sys2Proof.Proofs.PlateFacts
end

section
/-!
The close of a piece as plates: its routing entries, its log entries and its counts (R164 to R172).
-/

namespace Sys2Proof.Proofs.PlateClosing

open Sys2Proof Sys2Proof.Machine Sys2Proof.Proofs.Frames Sys2Proof.Proofs.Blocks Sys2Proof.Proofs.Forming
  Sys2Proof.Proofs.PlateFacts Sys2Proof.Proofs.Grading

/-! ## Lists that keep their newest entries -/

/-- Dropping the oldest entry first changes nothing where more entries are to be dropped. -/
theorem drop_of_dropped_first {α : Type} {xs : List α} (hne : 1 ≤ xs.length) (e : α) (es : List α) (n : Nat) :
    ((xs.drop 1 ++ [e]) ++ es).drop n = (xs ++ e :: es).drop (n + 1) := by
  rw [← List.drop_append_of_le_length hne, List.append_cons xs e es]
  rw [← List.drop_append_of_le_length (by rw [List.length_append]; omega), List.drop_drop, Nat.add_comm 1 n]

theorem or_flag_again (x b : BitVec 8) (p : Prop) [Decidable p] : x ||| b ||| (if p then 0 else b) = x ||| b := by
  by_cases hp : p
  · rw [if_pos hp, or_no_flag]
  · rw [if_neg hp, BitVec.or_assoc, BitVec.or_self]

/-! ## The routing entries (R148, R166) -/

section
variable (c : Closing)

/-- The dispatcher, the shift's count and the flags after so many routing entries: those that find the list full lose the
oldest entry each. -/
theorem routed_eq (plates : List Plate) :
    ∀ s : State, s.dispatcher.routing.length ≤ 32 →
      let lost := s.dispatcher.routing.length + plates.length - 32
      (routed c plates s).dispatcher =
          { s.dispatcher with
            routing := (s.dispatcher.routing ++ plates.map (Plate.route c)).drop lost
            routeLost := bumped lost s.dispatcher.routeLost } ∧
        (routed c plates s).accounts =
          { s.accounts with
            counts := { s.accounts.counts with routeLost := bumped lost s.accounts.counts.routeLost } } ∧
        (routed c plates s).links =
          { s.links with
            cutter := { s.links.cutter with flags := s.links.cutter.flags ||| (if lost = 0 then 0 else 16) } } := by
  induction plates with
  | nil =>
    intro s hlength lost
    have hlost : lost = 0 := by simp only [lost, List.length_nil]; omega
    rw [hlost, if_pos rfl, bumped_zero, bumped_zero, or_no_flag, List.drop_zero, List.map_nil, List.append_nil]
    exact ⟨rfl, rfl, rfl⟩
  | cons p plates ih =>
    intro s hlength lost
    have hstep : routed c (p :: plates) s = routed c plates (appendRoute (p.route c) s) := rfl
    rw [hstep]
    by_cases hfull : 32 ≤ s.dispatcher.routing.length
    · have hdispatcher := appendRoute_dispatcher_eq (p.route c) s
      have haccounts := appendRoute_accounts_eq (p.route c) s
      have hlinks := appendRoute_links_eq (p.route c) s
      rw [if_pos hfull] at haccounts hlinks
      rw [if_pos hfull, if_pos hfull] at hdispatcher
      have hlength' : (appendRoute (p.route c) s).dispatcher.routing.length = 32 := by
        rw [hdispatcher, List.length_append, List.length_drop, List.length_singleton]
        omega
      have hlost' : (appendRoute (p.route c) s).dispatcher.routing.length + plates.length - 32 = plates.length := by omega
      have hlost : lost = plates.length + 1 := by simp only [lost, List.length_cons]; omega
      obtain ⟨hd, ha, hl⟩ := ih (appendRoute (p.route c) s) (Nat.le_of_eq hlength')
      rw [hlost', hdispatcher] at hd
      rw [hlost', haccounts] at ha
      rw [hlost', hlinks] at hl
      rw [hd, ha, hl, hlost]
      simp only [bumped_bump, or_flag_again, if_neg (Nat.succ_ne_zero plates.length), List.map_cons,
        drop_of_dropped_first (xs := s.dispatcher.routing) (by omega), and_self]
    · have hu := appendRoute_of_room (p.route c) s (Nat.not_le.mp hfull)
      have hlength' : (appendRoute (p.route c) s).dispatcher.routing.length = s.dispatcher.routing.length + 1 := by
        rw [hu, List.length_append, List.length_singleton]
      have hlost : (appendRoute (p.route c) s).dispatcher.routing.length + plates.length - 32 = lost := by
        simp only [lost, List.length_cons]
        omega
      obtain ⟨hd, ha, hl⟩ := ih (appendRoute (p.route c) s) (by omega)
      rw [hlost] at hd ha hl
      rw [hd, ha, hl, hu]
      simp only [List.map_cons, List.append_assoc, List.singleton_append, and_self]

end

/-! ## The plate log (R167) -/

theorem logPlate_grader (e : PlateEntry) (s : State) :
    (logPlate e s).grader =
      { s.grader with log := (if s.grader.log.length < 64 then s.grader.log else s.grader.log.drop 1) ++ [e] } := rfl

theorem logged_eq (plates : List Plate) :
    ∀ s : State, s.grader.log.length ≤ 64 →
      (logged plates s).grader =
        { s.grader with
          log := (s.grader.log ++ plates.map Plate.entry).drop (s.grader.log.length + plates.length - 64) } := by
  induction plates with
  | nil =>
    intro s hlength
    have hlost : s.grader.log.length + ([] : List Plate).length - 64 = 0 := by rw [List.length_nil]; omega
    rw [hlost, List.drop_zero, List.map_nil, List.append_nil]
    rfl
  | cons p plates ih =>
    intro s hlength
    have hstep : logged (p :: plates) s = logged plates (logPlate p.entry s) := rfl
    have hgrader := logPlate_grader p.entry s
    rw [hstep]
    by_cases hroom : s.grader.log.length < 64
    · rw [if_pos hroom] at hgrader
      have hlength' : (logPlate p.entry s).grader.log.length = s.grader.log.length + 1 := by
        rw [hgrader, List.length_append, List.length_singleton]
      have hlog := ih (logPlate p.entry s) (by omega)
      rw [hlength', hgrader] at hlog
      rw [hlog, List.length_cons, List.map_cons, Nat.add_assoc, Nat.add_comm 1]
      simp only [List.append_assoc, List.singleton_append]
    · rw [if_neg hroom] at hgrader
      have hlength' : (logPlate p.entry s).grader.log.length = 64 := by
        rw [hgrader, List.length_append, List.length_drop, List.length_singleton]
        omega
      have hlog := ih (logPlate p.entry s) (Nat.le_of_eq hlength')
      have hlost : 64 + plates.length - 64 = plates.length := by omega
      have hlost' : s.grader.log.length + (p :: plates).length - 64 = plates.length + 1 := by
        rw [List.length_cons]
        omega
      rw [hlength', hgrader, hlost] at hlog
      rw [hlog, hlost', List.map_cons]
      simp only [drop_of_dropped_first (xs := s.grader.log) (by omega)]

/-! ## The counts of the plates (R171, R172) -/

/-- The accounts with the length or the area of one plate counted. -/
def sizeCounted (p : Plate) (a : Accounts) : Accounts :=
  let length := p.entry.stop - p.entry.start
  match p.cls with
  | .cullet => { a with counts := a.counts.addCull length }
  | .order => a.addProductArea (length * p.entry.width)
  | .surplus => a.addProductArea (length * p.entry.width)
  | _ => a

/-- The accounts with one plate counted. -/
def countedIn (a : Accounts) (p : Plate) : Accounts :=
  sizeCounted p { a with counts := a.counts.addPlate p.entry.grade p.cls }

theorem countPlate_accounts (p : Plate) (s : State) : (countPlate p s).accounts = countedIn s.accounts p := by
  unfold countPlate countedIn sizeCounted
  cases p.cls <;> rfl

theorem counted_accounts (plates : List Plate) : ∀ s, (counted plates s).accounts = plates.foldl countedIn s.accounts := by
  induction plates with
  | nil => exact fun _ => rfl
  | cons p plates ih =>
    intro s
    rw [List.foldl_cons, ← countPlate_accounts]
    exact ih (countPlate p s)

/-- The accounts with a count of lost routing entries, which no plate reads. -/
def withRouteLost (k : Nat) (a : Accounts) : Accounts := { a with counts := { a.counts with routeLost := k } }

theorem addPlate_of_room {a : Counts} {g : Grade} {d : DestClass} (h : a.byGrade[g.slot] < 65535 ∧ a.byDest[d.slot] < 65535) :
    a.addPlate g d =
      { a with
        byGrade := a.byGrade.set g.slot (a.byGrade[g.slot] + 1)
        byDest := a.byDest.set d.slot (a.byDest[d.slot] + 1) } := if_pos h

theorem addPlate_of_full {a : Counts} {g : Grade} {d : DestClass}
    (h : ¬(a.byGrade[g.slot] < 65535 ∧ a.byDest[d.slot] < 65535)) : a.addPlate g d = a := if_neg h

theorem addPlate_withRouteLost (k : Nat) (a : Counts) (g : Grade) (d : DestClass) :
    ({ a with routeLost := k } : Counts).addPlate g d = { a.addPlate g d with routeLost := k } := by
  by_cases hroom : a.byGrade[g.slot] < 65535 ∧ a.byDest[d.slot] < 65535
  · rw [addPlate_of_room hroom]
    exact addPlate_of_room (a := { a with routeLost := k }) hroom
  · rw [addPlate_of_full hroom]
    exact addPlate_of_full (a := { a with routeLost := k }) hroom

theorem countedIn_withRouteLost (k : Nat) (a : Accounts) (p : Plate) :
    countedIn (withRouteLost k a) p = withRouteLost k (countedIn a p) := by
  have hboth : ({ withRouteLost k a with counts := (withRouteLost k a).counts.addPlate p.entry.grade p.cls } : Accounts) =
      withRouteLost k { a with counts := a.counts.addPlate p.entry.grade p.cls } :=
    congrArg (fun x : Counts => { a with counts := x }) (addPlate_withRouteLost k a.counts p.entry.grade p.cls)
  have hsize : ∀ b : Accounts, sizeCounted p (withRouteLost k b) = withRouteLost k (sizeCounted p b) := by
    intro b
    unfold sizeCounted
    cases p.cls <;> rfl
  rw [countedIn, hboth, hsize]
  rfl

theorem foldl_withRouteLost (k : Nat) (plates : List Plate) :
    ∀ a, plates.foldl countedIn (withRouteLost k a) = withRouteLost k (plates.foldl countedIn a) := by
  induction plates with
  | nil => exact fun _ => rfl
  | cons p plates ih => intro a; rw [List.foldl_cons, List.foldl_cons, countedIn_withRouteLost, ih]

theorem addPlate_routeLost (a : Counts) (g : Grade) (d : DestClass) : (a.addPlate g d).routeLost = a.routeLost := by
  unfold Counts.addPlate
  split <;> rfl

theorem countedIn_routeLost (a : Accounts) (p : Plate) : (countedIn a p).counts.routeLost = a.counts.routeLost := by
  refine Eq.trans ?_ (addPlate_routeLost a.counts p.entry.grade p.cls)
  unfold countedIn sizeCounted
  cases p.cls <;> rfl

theorem foldl_routeLost (plates : List Plate) :
    ∀ a : Accounts, (plates.foldl countedIn a).counts.routeLost = a.counts.routeLost := by
  induction plates with
  | nil => exact fun _ => rfl
  | cons p plates ih => intro a; rw [List.foldl_cons, ih, countedIn_routeLost]

/-! ## The links of the accounting steps -/

theorem accountPlate_links (id : Nat) (delivers : Bool) (s : State) :
    (accountPlate id delivers s).links =
      { s.links with
        supervisor :=
          { s.links.supervisor with flags := (accountPlate id delivers s).links.supervisor.flags } } := by
  unfold accountPlate
  split
  · simp only
    split <;> rfl
  · rfl

/-- The accounting steps write of the links the supervisor's flags alone. -/
theorem accountedAll_links (c : Closing) (plates : List Plate) :
    ∀ s : State, (plates.foldl (accounted c) s).links =
      { s.links with
        supervisor := { s.links.supervisor with flags := (plates.foldl (accounted c) s).links.supervisor.flags } } := by
  have hone : ∀ (s : State) (p : Plate), (accounted c s p).links =
      { s.links with supervisor := { s.links.supervisor with flags := (accounted c s p).links.supervisor.flags } } := by
    intro s p
    unfold accounted
    split
    · split
      · exact accountPlate_links _ _ s
      · rfl
    · rfl
  induction plates with
  | nil => exact fun _ => rfl
  | cons p plates ih =>
    intro s
    rw [List.foldl_cons]
    exact (ih (accounted c s p)).trans (congrArg
      (fun x : Links =>
        { x with
          supervisor :=
            { x.supervisor with flags := (plates.foldl (accounted c) (accounted c s p)).links.supervisor.flags } })
      (hone s p))

end Sys2Proof.Proofs.PlateClosing
end

section
/-!
The close of a piece as plates, put together (R166).
-/

namespace Sys2Proof.Proofs.Graded

open Sys2Proof Sys2Proof.Machine Sys2Proof.Proofs.Frames Sys2Proof.Proofs.Blocks Sys2Proof.Proofs.Forming
  Sys2Proof.Proofs.PlateFacts Sys2Proof.Proofs.Grading Sys2Proof.Proofs.PlateClosing

/-! ## The step -/

theorem isPlates_of_plates {k : PieceKind} (h : k = .product ∨ k = .short ∨ k = .sample) : k.isPlates = true := by
  rcases h with rfl | rfl | rfl <;> rfl

theorem exec_platePieceClose {s : State} (h : Working s) {c : Closing} (hclosing : s.grader.closing = some c)
    (hkind : c.piece.kind.isPlates = true) : exec .platePieceClose s = .next (setRisenLevels s (closePlates c s)) := by
  have hclosed : plateClosing s = closePlates c s := by
    simp only [plateClosing, hclosing]
    exact if_pos hkind
  show blockStep plateClosing s = _
  rw [blockStep_of_working h, hclosed]

/-! ## What the close leaves -/

section
variable {c : Closing} {s : State} {plates : List Plate} (hplates : platesOf c s c.blanks 0 = plates)
  (hlow : 1 ≤ s.grader.nextPlate) (hhigh : s.grader.nextPlate ≤ 65535)
include hplates hlow hhigh

theorem formed_plates : (formed c s).2 = plates := (formed_eq hlow hhigh).1.trans hplates

theorem formed_as : FormedAs s (formed c s).1 (plates.foldl (accounted c) s) plates.length := by
  have hformed := (formed_eq (c := c) hlow hhigh).2
  have hlength : c.blanks.length = plates.length := by rw [← hplates, platesOf_length]
  rw [hplates, hlength] at hformed
  exact hformed

theorem closePlates_grader_eq (hlog : s.grader.log.length ≤ 64) :
    (closePlates c s).grader =
      { s.grader with
        closing := none
        nextPlate := (s.grader.nextPlate - 1 + plates.length) % 65535 + 1
        wrapped := s.grader.wrapped || decide (65535 < s.grader.nextPlate + plates.length)
        log := (s.grader.log ++ plates.map Plate.entry).drop (s.grader.log.length + plates.length - 64) } := by
  have hrouted : (routed c plates (formed c s).1).grader = idsTaken plates.length s.grader :=
    (congrArg State.grader (routed_frame c plates (formed c s).1) :).trans (formed_as hplates hlow hhigh).grader
  have hlogged := logged_eq plates (routed c plates (formed c s).1) (by rw [hrouted]; exact hlog)
  rw [closePlates_grader, formed_plates hplates hlow hhigh, hlogged, hrouted]
  rfl

theorem closePlates_production_stepped :
    (closePlates c s).production = (plates.foldl (accounted c) s).production := by
  rw [closePlates_production_eq]
  exact (formed_as hplates hlow hhigh).production

section
variable (hrouting : s.dispatcher.routing.length ≤ 32)
include hrouting

theorem routed_plates :
    let lost := s.dispatcher.routing.length + plates.length - 32
    (routed c plates (formed c s).1).dispatcher =
        { s.dispatcher with
          routing := (s.dispatcher.routing ++ plates.map (Plate.route c)).drop lost
          routeLost := bumped lost s.dispatcher.routeLost } ∧
      (routed c plates (formed c s).1).accounts = withRouteLost (bumped lost s.accounts.counts.routeLost) s.accounts ∧
      (routed c plates (formed c s).1).links =
        { (plates.foldl (accounted c) s).links with
          cutter := { s.links.cutter with flags := s.links.cutter.flags ||| (if lost = 0 then 0 else 16) } } := by
  intro lost
  have hframe := formed_frame c s
  have hdispatcher : (formed c s).1.dispatcher = s.dispatcher := (congrArg State.dispatcher hframe :)
  have haccounts : (formed c s).1.accounts = s.accounts := (congrArg State.accounts hframe :)
  have hlinks : (formed c s).1.links = (plates.foldl (accounted c) s).links := (formed_as hplates hlow hhigh).links
  have hcutter : (plates.foldl (accounted c) s).links.cutter = s.links.cutter :=
    (congrArg Links.cutter (accountedAll_links c plates s) :)
  have hrouted := routed_eq c plates (formed c s).1 (by rw [hdispatcher]; exact hrouting)
  rw [hdispatcher, haccounts, hlinks, hcutter] at hrouted
  exact hrouted

theorem closePlates_dispatcher_eq :
    (closePlates c s).dispatcher =
      { s.dispatcher with
        routing :=
          (s.dispatcher.routing ++ plates.map (Plate.route c)).drop (s.dispatcher.routing.length + plates.length - 32)
        routeLost := bumped (s.dispatcher.routing.length + plates.length - 32) s.dispatcher.routeLost } := by
  rw [closePlates_dispatcher, formed_plates hplates hlow hhigh]
  exact (routed_plates hplates hlow hhigh hrouting).1

theorem closePlates_accounts_eq :
    (closePlates c s).accounts =
      (withRouteLost (bumped (s.dispatcher.routing.length + plates.length - 32) s.accounts.counts.routeLost)
        (plates.foldl countedIn s.accounts)).addTotalArea (c.piece.length * c.netZone.width) := by
  have hlogged : (logged plates (routed c plates (formed c s).1)).accounts = (routed c plates (formed c s).1).accounts :=
    (congrArg State.accounts (logged_frame plates (routed c plates (formed c s).1)) :)
  rw [closePlates_eq, closed_accounts, formed_plates hplates hlow hhigh]
  refine congrArg (fun a : Accounts => a.addTotalArea (c.piece.length * c.netZone.width)) ?_
  rw [counted_accounts, hlogged, (routed_plates hplates hlow hhigh hrouting).2.1, foldl_withRouteLost]

theorem closePlates_links_eq :
    (closePlates c s).links =
      { (plates.foldl (accounted c) s).links with
        cutter :=
          { s.links.cutter with
            flags :=
              s.links.cutter.flags |||
                (if s.dispatcher.routing.length + plates.length - 32 = 0 then 0 else 16) } } := by
  rw [closePlates_eq, formed_plates hplates hlow hhigh]
  exact (congrArg State.links (closed_frame c _) :).trans
    ((congrArg State.links (counted_frame plates (logged plates (routed c plates (formed c s).1))) :).trans
      ((congrArg State.links (logged_frame plates (routed c plates (formed c s).1)) :).trans
        (routed_plates hplates hlow hhigh hrouting).2.2))

end

end

/-- The routing list holds an entry after the close of a piece with plates. -/
theorem drop_ne_nil {α : Type} {xs ys : List α} (hxs : xs = []) :
    (xs ++ ys).drop (xs.length + ys.length - 32) ≠ [] ↔ ys ≠ [] := by
  subst hxs
  have hlength : (([] : List α) ++ ys).drop (([] : List α).length + ys.length - 32) = ys.drop (ys.length - 32) := by simp
  rw [hlength, ne_eq, ne_eq, List.drop_eq_nil_iff]
  cases ys with
  | nil => simp
  | cons y ys => simp only [List.length_cons, reduceCtorEq, not_false_eq_true, iff_true]; omega

end Sys2Proof.Proofs.Graded
end

section
/-!
A PRODUCT, SHORT or SAMPLE piece is graded, plate by plate (chapter 9).
-/

namespace Sys2Proof.Proofs.PlatePiece

open Sys2Proof Sys2Proof.Machine Sys2Proof.Proofs.Blocks Sys2Proof.Proofs.Forming
  Sys2Proof.Proofs.PlateFacts Sys2Proof.Proofs.Grading Sys2Proof.Proofs.PlateClosing Sys2Proof.Proofs.Graded
  Sys2Proof.Proofs.Accepted Sys2Proof.Proofs.Frames

/-! ## One plate -/

section
variable (c : Closing) (s : State) (a : Across) (i : Nat)

/-- The entry of a column's plate, and the class of its destination. -/
def graded : PlateEntry × DestClass := ((plateOf c s (blankAt c a i) i).entry, (plateOf c s (blankAt c a i) i).cls)

/-- A plate's destination is that of its role and grade. -/
theorem graded_dest :
    ((graded c s a i).1.dest, (graded c s a i).2) =
      destinationOf s.conf.dest (c.roleAt i) (graded c s a i).1.grade (c.order.bind s.production.order) := rfl

theorem graded_surplus : (graded c s a i).1.surplus = (c.roleAt i == .surplus) := rfl

theorem graded_short : (graded c s a i).1.short = (c.roleAt i == .short) := rfl

theorem graded_sample : (graded c s a i).1.sample = (c.roleAt i == .sample) := rfl

end

section
variable {c : Closing} {s : State} {a : Across} {i : Nat}
  (hkind : c.piece.kind = .product ∨ c.piece.kind = .short ∨ c.piece.kind = .sample)
include hkind

/-- The marks of a plate are those of its role. -/
theorem graded_marks :
    (graded c s a i).1.surplus =
        decide (c.piece.kind = .product ∧ ¬(c.piece.kind = .product ∧ c.cleared = false ∧ i < c.orderPlates)) ∧
      (graded c s a i).1.short = decide (c.piece.kind = .short) ∧
      (graded c s a i).1.sample = decide (c.piece.kind = .sample) := by
  rw [graded_surplus, graded_short, graded_sample]
  rcases hkind with hproduct | hshort | hsample
  · rw [roleAt_product hproduct, hproduct]
    by_cases hordered : c.cleared = false ∧ i < c.orderPlates
    · rw [if_pos hordered]
      exact ⟨(decide_eq_false fun h => h.2 ⟨rfl, hordered⟩).symm, rfl, rfl⟩
    · rw [if_neg hordered]
      exact ⟨(decide_eq_true ⟨rfl, fun h => hordered h.2⟩).symm, rfl, rfl⟩
  · rw [roleAt_short hshort, hshort]
    exact ⟨rfl, rfl, rfl⟩
  · rw [roleAt_sample hsample, hsample]
    exact ⟨rfl, rfl, rfl⟩

/-- Where a plate goes, by the table of R163. -/
theorem graded_goes :
    let e := (graded c s a i).1
    let cls := (graded c s a i).2
    let codes := s.conf.dest
    let ordered := c.piece.kind = .product ∧ c.cleared = false ∧ i < c.orderPlates
    let order := c.order.bind s.production.order
    (c.piece.kind = .sample → cls = .sample ∧ e.dest = codes[6]) ∧
      (c.piece.kind ≠ .sample → e.grade = .x → cls = .cullet ∧ e.dest = codes[7]) ∧
      (c.piece.kind = .short → e.grade ≠ .x → cls = .short ∧ e.dest = codes[5]) ∧
      (∀ o, ordered → e.grade ≠ .x → order = some o → e.grade.code ≤ o.grade.code → cls = .order ∧ e.dest = o.stacker) ∧
      (∀ o, ordered → e.grade ≠ .x → order = some o → o.grade.code < e.grade.code →
        cls = .downgrade ∧ e.dest = if e.grade = .b then codes[3] else codes[4]) ∧
      (c.piece.kind = .product → e.grade ≠ .x → (ordered → order = none) →
        cls = .surplus ∧ e.dest = if e.grade = .a then codes[0] else if e.grade = .b then codes[1] else codes[2]) := by
  intro e cls codes ordered order
  have hgoes : ∀ {dest : Nat} {k : DestClass}, destinationOf codes (c.roleAt i) e.grade order = (dest, k) →
      cls = k ∧ e.dest = dest := fun h => (Prod.mk.inj ((graded_dest c s a i).trans h)).symm
  have hordered : ordered → c.roleAt i = .order := fun h => by rw [roleAt_product h.1, if_pos h.2]
  refine ⟨fun hsample => hgoes ?_, fun hother hx => hgoes ?_, fun hshort hx => hgoes ?_,
    fun o ho hx horder hmeets => hgoes ?_, fun o ho hx horder hworse => hgoes ?_, fun hproduct hx hnone => hgoes ?_⟩
  · rw [roleAt_sample hsample]
    rfl
  · refine destinationOf_cullet (fun hrole => ?_) hx order
    rcases hkind with hproduct | hshort | hsample
    · rw [roleAt_product hproduct] at hrole
      split at hrole <;> cases hrole
    · rw [roleAt_short hshort] at hrole
      cases hrole
    · exact hother hsample
  · rw [roleAt_short hshort]
    exact destinationOf_short hx order
  · rw [hordered ho, horder]
    exact destinationOf_meets hx hmeets
  · rw [hordered ho, horder]
    exact destinationOf_downgrade hx hworse
  · by_cases ho : ordered
    · rw [hordered ho, hnone ho, destinationOf_order_none hx]
      exact destinationOf_surplus hx none
    · have hrole : c.roleAt i = .surplus := by rw [roleAt_product hproduct, if_neg fun h => ho ⟨hproduct, h⟩]
      rw [hrole]
      exact destinationOf_surplus hx order

end

/-! ## The plates of a piece -/

theorem platesOf_graded {c : Closing} {s : State} {i : Nat} {e : PlateEntry} {cls : DestClass} {a : Across}
    (hplate : ((platesOf c s c.blanks 0).map fun p => (p.entry, p.cls))[i]? = some (e, cls))
    (hcolumn : (plateColumns c)[i]? = some a) : (e, cls) = graded c s a i := by
  rw [List.getElem?_map, Option.map_eq_some_iff] at hplate
  obtain ⟨p, hp, heq⟩ := hplate
  obtain ⟨b, hb, rfl⟩ := platesOf_getElem? hp
  obtain rfl := Option.some.inj (hb.symm.trans (blanks_getElem? hcolumn))
  exact heq.symm

/-- Two folds agree when their steps agree on the members. -/
theorem foldl_eq_of_mem {α β : Type} {f g : β → α → β} (xs : List α) (b : β) (h : ∀ b, ∀ x ∈ xs, f b x = g b x) :
    xs.foldl f b = xs.foldl g b := by
  induction xs generalizing b with
  | nil => rfl
  | cons x xs ih =>
    rw [List.foldl_cons, List.foldl_cons, h b x List.mem_cons_self]
    exact ih _ fun b y hy => h b y (List.mem_cons_of_mem x hy)

/-- The accounting steps of the plates, as they are made one after another. -/
theorem accountedAll_eq (c : Closing) (plates : List Plate) (s : State) :
    plates.foldl (accounted c) s =
      match c.order with
      | some id =>
        ((plates.map fun p => (p.entry, p.cls)).filter fun x => !x.1.surplus && !x.1.short && !x.1.sample).foldl
          (fun u x => accountPlate id (x.2 == .order) u) s
      | none => s := by
  cases horder : c.order with
  | none =>
    have hsame : ∀ u p, accounted c u p = u := fun u p => by simp only [accounted, horder]
    induction plates with
    | nil => rfl
    | cons p plates ih => rw [List.foldl_cons, hsame]; exact ih
  | some id =>
    simp only
    rw [List.foldl_filter, List.foldl_map]
    refine foldl_eq_of_mem _ _ fun u p _ => ?_
    simp only [accounted, horder]

/-- The boundary that the part counts a plate at: a count that is full holds both. -/
theorem both_counted (a : Accounts) (g : Grade) (d : DestClass) :
    (if a.counts.byGrade[g.slot] < 65535 ∧ a.counts.byDest[d.slot] < 65535 then
        ({ a with
          counts :=
            { a.counts with
              byGrade := a.counts.byGrade.set g.slot (a.counts.byGrade[g.slot] + 1)
              byDest := a.counts.byDest.set d.slot (a.counts.byDest[d.slot] + 1) } } : Accounts)
      else a) = { a with counts := a.counts.addPlate g d } := by
  by_cases hroom : a.counts.byGrade[g.slot] < 65535 ∧ a.counts.byDest[d.slot] < 65535
  · rw [if_pos hroom, addPlate_of_room hroom]
  · rw [if_neg hroom, addPlate_of_full hroom]

/-- The size of a plate counted, with its class: the cullet takes its length, and order and surplus plates their area. -/
theorem sizeCounted_eq {p : Plate} {start stop : Nat} (hstart : p.entry.start = start) (hstop : p.entry.stop = stop)
    (a : Accounts) :
    sizeCounted p a =
      match p.cls with
      | .cullet =>
        { a with counts := { a.counts with cullLength := min 4294967295 (a.counts.cullLength + (stop - start)) } }
      | .order | .surplus =>
        let r := carryArea a.counts.productArea a.productRem ((stop - start) * p.entry.width)
        { a with counts := { a.counts with productArea := r.1 }, productRem := r.2 }
      | _ => a := by
  subst hstart hstop
  unfold sizeCounted
  cases p.cls <;> rfl

/-- Settles O41. -/
theorem platePieceIsGraded : Obligations.PlatePieceIsGraded := by
  intro s c h hclosing hkind hlow hhigh hrouting hlog product columns start stop limits codes edge lengthOfPiece
  let formed := platesOf c s c.blanks 0
  let plates := formed.map fun p => (p.entry, p.cls)
  have hcolumns : plateColumns c = columns := rfl
  have hlength : plates.length = formed.length := List.length_map _
  have hcount : formed.length = columns.length := by
    rw [← hcolumns, ← blanks_length]
    exact platesOf_length c s c.blanks 0
  have hplanner := removed_planner ((setRisenLevels_planner s (closePlates c s)).trans (closePlates_planner c s))
  refine ⟨_, plates, exec_platePieceClose h hclosing (isPlates_of_plates hkind), hlength.trans hcount,
    fun i e cls a hplate hcolumn => ?_, ?_, ?_, hplanner.1, hplanner.2, ?_⟩
  · intro flaws points ofClass ordered order
    obtain ⟨rfl, rfl⟩ := Prod.mk.inj (platesOf_graded hplate (hcolumns ▸ hcolumn))
    have hflaws : flawsOf (blankAt c a i) s.map.flaws = flaws := flawsOf_eq _ _
    have hclass : ∀ k, classCount k (flawsOf (blankAt c a i) s.map.flaws) = ofClass k := fun k =>
      congrArg (classCount k) hflaws
    obtain ⟨hsurplus, hshort, hsample⟩ := graded_marks (s := s) (a := a) (i := i) hkind
    refine ⟨rfl, rfl, rfl, rfl, rfl, rfl, rfl, rfl, rfl, rfl, hsurplus, hshort, hsample, hclass .faint, hclass .minor,
      hclass .major, hclass .critical, congrArg (pointsSum limits (blankAt c a i)) hflaws, rfl, rfl, rfl,
      ⟨_, (sortOrdered_perm _ _).trans (.of_eq ?_), listed_ordered _, rfl⟩, ?_, graded_goes hkind⟩
    · exact congrArg (List.map (listedFlaw limits (blankAt c a i))) hflaws
    · exact congrArg (fun xs : List FlawRecord => min 65535 (xs.length - 6)) hflaws
  · intro n lost more steps stepped counted all total
    have hn : n = formed.length := hlength
    have hstepped : formed.foldl (accounted c) s = stepped := accountedAll_eq c formed s
    have hcounted : ∀ a, ∀ p ∈ formed, countedIn a p = counted a (p.entry, p.cls) := by
      intro a p hp
      obtain ⟨hstart, hstop⟩ := extent_of_mem_platesOf hp
      exact (congrArg (sizeCounted p) (both_counted a p.entry.grade p.cls).symm).trans (sizeCounted_eq hstart hstop _)
    have hall : formed.foldl countedIn s.accounts = all := by
      show _ = (formed.map fun p => (p.entry, p.cls)).foldl counted s.accounts
      rw [List.foldl_map]
      exact foldl_eq_of_mem _ _ fun a p hp => hcounted a p hp
    have hlost : s.dispatcher.routing.length + formed.length - 32 = lost := by rw [← hn]
    have hdispatcher := closePlates_dispatcher_eq (c := c) (s := s) rfl hlow hhigh hrouting
    have hentries : plates.map Prod.fst = formed.map Plate.entry := by
      rw [List.map_map]
      rfl
    have hroutes : (plates.map fun x =>
        (⟨c.piece.seq, c.piece.kind, x.1.column, x.1.dest, some x.1.grade, x.1.id⟩ : RouteEntry)) =
          formed.map (Plate.route c) := by
      rw [List.map_map]
      rfl
    refine ⟨?_, ?_, ?_, ?_, ?_⟩
    · rw [setRisenLevels_grader, closePlates_grader_eq (plates := formed) rfl hlow hhigh hlog, hentries, hn]
    · rw [setRisenLevels_dispatcher, hdispatcher, hroutes, hlost]
      rfl
    · rw [setRisenLevels_production, ← hstepped]
      exact closePlates_production_stepped rfl hlow hhigh
    · have hloss : all.counts.routeLost = s.accounts.counts.routeLost := hall ▸ foldl_routeLost formed s.accounts
      rw [setRisenLevels_accounts, closePlates_accounts_eq (plates := formed) rfl hlow hhigh hrouting, hlost, hall, hloss,
        piece_length_eq]
      rfl
    · have hcuts : (closePlates c s).dispatcher.cuts = s.dispatcher.cuts := (congrArg Dispatcher.cuts hdispatcher :)
      have hsteppedLinks := accountedAll_links c formed s
      rw [hstepped] at hsteppedLinks
      have hrises : (s.dispatcher.routing = [] ∧ (closePlates c s).dispatcher.routing ≠ []) ↔
          (s.dispatcher.routing = [] ∧ plates ≠ []) := by
        refine and_congr_right fun hempty => ?_
        have hroutesLength : formed.length = (formed.map (Plate.route c)).length := (List.length_map _).symm
        rw [hdispatcher]
        show (s.dispatcher.routing ++ formed.map (Plate.route c)).drop
          (s.dispatcher.routing.length + formed.length - 32) ≠ [] ↔ _
        rw [hroutesLength, drop_ne_nil hempty, ne_eq, ne_eq, List.map_eq_nil_iff, List.map_eq_nil_iff]
      have hstarved : (setRisenLevels s (closePlates c s)).starved = (closePlates c s).starved :=
        Taking.levelCondition_setRisenLevels .starved s (closePlates c s)
      rw [hstarved, setRisenLevels_links_of_cuts hcuts, closePlates_links_eq (plates := formed) rfl hlow hhigh hrouting,
        hstepped, hlost]
      simp only [hrises]
      rw [hsteppedLinks]
  · rw [setRisenLevels_map, closePlates_map]
    rfl
  · exact (congrArg
      (fun t : State =>
        { t with
          grader := s.grader, dispatcher := s.dispatcher, production := s.production, accounts := s.accounts
          links := s.links, map := s.map, planner := s.planner })
      (setRisenLevels_frame s (closePlates c s)) :).trans (closePlates_frame c s)

end Sys2Proof.Proofs.PlatePiece
end

section
/-!
The mode entry: its checks, the head cut, and what it raises (R119, R182, R183).
-/

namespace Sys2Proof.Proofs.Entering

open Sys2Proof Sys2Proof.Machine Sys2Proof.Proofs.Frames Sys2Proof.Proofs.Blocks Sys2Proof.Proofs.Accepted
  Sys2Proof.Proofs.AccountsCommands Sys2Proof.Proofs.Cuts Sys2Proof.Proofs.Taking Sys2Proof.Proofs.TravelUnit

/-! ## The entry checks (R182) -/

theorem sum_eq_zero_iff (xs : List Nat) : xs.sum = 0 ↔ ∀ x ∈ xs, x = 0 := by
  induction xs with
  | nil => simp
  | cons x xs ih => rw [List.sum_cons, Nat.add_eq_zero_iff, ih, List.forall_mem_cons]

theorem laneFaults_eq_zero_iff (lanes : Vector Across 12) :
    laneFaults lanes = 0 ↔ ∀ n : Fin 12, lanes[n].xl < lanes[n].xr := by
  have hbit : ∀ x : Across × Nat, (if x.1.xl < x.1.xr then 0 else 2 ^ x.2) = 0 ↔ x.1.xl < x.1.xr := by
    intro x
    by_cases hx : x.1.xl < x.1.xr <;> simp [hx]
  unfold laneFaults
  rw [sum_eq_zero_iff]
  constructor
  · intro h n
    refine (hbit (lanes[n], n.val)).mp (h _ (List.mem_map_of_mem (a := (lanes[n], n.val)) ?_))
    rw [List.mem_zipIdx_iff_getElem?]
    simp
  · intro h faults hfaults
    obtain ⟨x, hx, rfl⟩ := List.mem_map.mp hfaults
    rw [List.mem_zipIdx_iff_getElem?, List.getElem?_eq_some_iff] at hx
    obtain ⟨hn, hlane⟩ := hx
    have hn12 : x.2 < 12 := by simpa using hn
    have hordered : lanes[x.2].xl < lanes[x.2].xr := h ⟨x.2, hn12⟩
    rw [Vector.getElem_toList] at hlane
    rw [hlane] at hordered
    exact (hbit x).mpr hordered

theorem faultBit_decide (p : Prop) [Decidable p] (bit : Nat) : faultBit (decide p) bit = if p then 0 else 2 ^ bit := by
  by_cases hp : p <;> simp [faultBit, hp]

theorem entryFaults_eq (c : Conf) :
    entryFaults c =
      (if c.dCommit < c.dCut then 0 else 1) + (if c.dCommit / c.cmin + 4 ≤ c.q then 0 else 2) +
        (if ∀ n : Fin 12, c.lanes[n].xl < c.lanes[n].xr then 0 else 4) + (if c.netZone.xl < c.netZone.xr then 0 else 8) := by
  have hlanes : faultBit (laneFaults c.lanes == 0) 2 = if ∀ n : Fin 12, c.lanes[n].xl < c.lanes[n].xr then 0 else 4 :=
    (faultBit_decide (laneFaults c.lanes = 0) 2).trans (ite_congr (propext (laneFaults_eq_zero_iff c.lanes))
      (fun _ => rfl) fun _ => rfl)
  unfold entryFaults
  rw [hlanes, faultBit_decide, faultBit_decide, faultBit_decide] <;> rfl

/-! ## What an entry does to the links -/

theorem enterPlanner_links (s : State) : (enterPlanner s).links = s.links := by
  unfold enterPlanner
  rw [armDeadline_links, appendCut_links]

theorem flagged_evaluateStale {e : Event} {s : State} (h : Flagged e s) : Flagged e (evaluateStale s) := by
  unfold evaluateStale
  split
  · refine flagged_raise_of_flagged .stale ?_
    unfold Flagged at h ⊢
    cases hlink : e.link <;> rw [hlink] at h <;> exact h
  · exact h

/-- A mode entry clears no flag, and sets those that raising MODE sets. -/
theorem flagged_enterMode {e : Event} {m : Mode} {s : State} (h : Flagged e (raiseMode s)) : Flagged e (enterMode m s) := by
  refine flagged_evaluateStale ((flagged_congr (enterPlanner_links _)).mpr ?_)
  exact h

theorem flagged_raiseMode_of_flagged {e : Event} {s : State} (h : Flagged e s) : Flagged e (raiseMode s) :=
  flagged_raise_of_flagged _ (flagged_raise_of_flagged _ (flagged_raise_of_flagged _ h))

theorem flagged_mode (l : Link) (s : State) : Flagged (.mode l) (raiseMode s) := by
  cases l with
  | gantry => exact flagged_raise_of_flagged _ (flagged_raise_of_flagged _ (flagged_raise _ _))
  | cutter => exact flagged_raise_of_flagged _ (flagged_raise _ _)
  | supervisor => exact flagged_raise _ _

/-- A flag that is set reads as its bit. -/
theorem flags_of_flagged {e : Event} {s : State} (h : Flagged e s) :
    (s.link e.link).flags &&& flagBit e.flag = flagBit e.flag := by
  unfold Flagged at h
  rw [← h]
  ext i
  simp only [BitVec.getElem_and, BitVec.getElem_or, Bool.and_eq_right_iff_imp, Bool.or_eq_true]
  exact Or.inr

theorem flagged_setPending {e : Event} {l : Link} {r : Response} {s : State} (h : Flagged e s) :
    Flagged e (setPending l r s) := by
  unfold Flagged at h ⊢
  cases hlink : e.link <;> rw [hlink] at h <;> cases l <;> exact h

/-- An entry sets STALE and disarms it where the condition holds. -/
theorem enterMode_stale {m : Mode} {s : State} (harmed : s.links.staleArmed = true) (hdistance : s.conf.staleDistance ≠ 0)
    (hfall : s.conf.staleDistance < s.travel.p - s.map.w) :
    Flagged .stale (enterMode m s) ∧ (enterMode m s).links.staleArmed = false := by
  let entered := enterPlanner (raiseMode { s with mode := m, switch := none })
  have hlinks : entered.links = (raiseMode s).links := enterPlanner_links _
  have hp : entered.travel.p = s.travel.p := by
    rw [show entered = enterPlanner (raiseMode { s with mode := m, switch := none }) from rfl]
    exact (congrArg Travel.p (enterPlanner_travel_frame _) :)
  have harmed' : entered.links.staleArmed = true := by
    rw [hlinks]
    exact harmed
  have hcondition : entered.staleCondition = true := by
    rw [staleCondition_iff, hp]
    have hconf : entered.conf = s.conf := by
      simp only [entered, enterPlanner, armDeadline_conf, appendCut_conf]
      rfl
    have hmap : entered.map = s.map := by
      simp only [entered, enterPlanner, armDeadline_map, appendCut_map]
      rfl
    rw [hconf, hmap]
    exact ⟨hdistance, hfall⟩
  have hstale := evaluateStale_of_condition harmed' hcondition
  refine ⟨?_, (congrArg Links.staleArmed hstale :)⟩
  show (evaluateStale entered).links.gantry.flags ||| flagBit 1 = (evaluateStale entered).links.gantry.flags
  rw [hstale]
  exact (BitVec.or_assoc _ _ _).trans (congrArg _ (BitVec.or_self))

/-! ## The compares after an entry -/

/-- The part at a mode entry, before the head cut is laid. -/
def entering (m : Mode) (s : State) : State :=
  let s' := raiseMode { s with mode := m, switch := none }
  { s' with
    planner := { s'.planner with state := .armed, s := s.entryStart }
    dispatcher := { s'.dispatcher with headPos := s.entryStart } }

theorem enterMode_eq (m : Mode) (s : State) :
    enterMode m s =
      evaluateStale (armDeadline s.entryStart (appendCut s.entryStart .head none none (entering m s))) := rfl

theorem enterMode_travel_eq (m : Mode) (s : State) :
    (enterMode m s).travel =
      (armDeadline s.entryStart (appendCut s.entryStart .head none none (entering m s))).travel :=
  (congrArg State.travel (evaluateStale_frame _) :)

theorem enterMode_deadline (m : Mode) (s : State) :
    (s.travel.p < s.conf.commitPoint s.entryStart → (enterMode m s).travel.deadline = some s.entryStart) ∧
      (s.conf.commitPoint s.entryStart ≤ s.travel.p → (enterMode m s).travel.deadlineRaised = some s.entryStart) := by
  have hspec := armDeadline_spec s.entryStart (appendCut s.entryStart .head none none (entering m s))
  rw [appendCut_p, appendCut_conf] at hspec
  rw [enterMode_travel_eq]
  exact ⟨fun h => (hspec.1 h).1, fun h => (hspec.2 h).2⟩

theorem enterMode_follows (m : Mode) {s : State} (hempty : s.dispatcher.cuts = []) :
    ExpiryFollowsHead s.travel.expiryRaised (enterMode m s) := by
  have hcut : ExpiryFollowsHead s.travel.expiryRaised (appendCut s.entryStart .head none none (entering m s)) :=
    appendCut_follows (s := entering m s) _ _ _ _ hempty
  have harmed : ExpiryFollowsHead s.travel.expiryRaised
      (armDeadline s.entryStart (appendCut s.entryStart .head none none (entering m s))) :=
    hcut.congr rfl (raiseDeadline_expiry _ _) (raiseDeadline_expiryRaised _ _) rfl (by simp)
  rw [enterMode_eq]
  generalize armDeadline _ _ = u at harmed
  exact harmed.congr (congrArg (fun t : State => t.dispatcher.cuts) (evaluateStale_frame u) :)
    (congrArg (fun t : State => t.travel.expiry) (evaluateStale_frame u) :)
    (congrArg (fun t : State => t.travel.expiryRaised) (evaluateStale_frame u) :)
    (congrArg State.conf (evaluateStale_frame u) :) (congrArg (fun t : State => t.travel.p) (evaluateStale_frame u) :)

/-! ## MODE RUN and MODE CULL in SETUP -/

theorem modeAct_entry {i : Instr} {b : Body} {mode : Mode}
    (hi : (i = .modeRun .supervisor b ∧ mode = .run) ∨ (i = .modeCull .supervisor b ∧ mode = .cull)) :
    ∃ arg, (∀ s, exec i s = modeCommand arg .supervisor b s) ∧ ∀ s, modeAct arg s = requestMode mode s := by
  rcases hi with ⟨rfl, rfl⟩ | ⟨rfl, rfl⟩
  · exact ⟨1, fun _ => rfl, fun _ => rfl⟩
  · exact ⟨2, fun _ => rfl, fun _ => rfl⟩

/-- MODE RUN and MODE CULL in SETUP are refused when an entry check fails. -/
theorem modeCommand_refused {s : State} (h : Working s) (hsetup : s.mode = .setup) {arg : Byte} {mode : Mode}
    (harg : ∀ u, modeAct arg u = requestMode mode u) (b : Body) (hfaults : entryFaults s.conf ≠ 0) :
    modeCommand arg .supervisor b s =
      .next
        (transferred .supervisor b 0x30
          ⟨.refused, .range, [word (entryFaults s.conf), word (laneFaults s.conf.lanes)]⟩ s) := by
  refine command_answer h (mode_accepted b s.mode) ((harg _).trans ?_)
  exact (if_pos (c := (shiftOut .supervisor (b.data.length + 1) s).mode = .setup) hsetup).trans (if_neg hfaults)

theorem enterMode_modeWords (m : Mode) (s : State) : modeWords (enterMode m s) = [word m.code, word m.code] := by
  obtain ⟨hmode, hswitch⟩ := enterMode_mode m s
  unfold modeWords
  rw [hmode, hswitch]
  rfl

/-- Settles O45. -/
theorem modeEntryLaysTheHeadCut : Obligations.ModeEntryLaysTheHeadCut := by
  intro s b i mode h hsetup hi c faults
  obtain ⟨arg, hexec, harg⟩ := modeAct_entry hi
  have hfaults : entryFaults s.conf = faults := entryFaults_eq s.conf
  rw [hexec]
  refine ⟨fun hfail => hfaults ▸ modeCommand_refused h hsetup harg b (hfaults ▸ hfail), fun hpass hempty => ?_⟩
  intro start
  let read := shiftOut .supervisor (b.data.length + 1) s
  let entered := enterMode mode read
  have hact : modeAct arg read = (entered, Reply.done [word mode.code, word mode.code]) := by
    rw [← enterMode_modeWords mode read, harg]
    exact (if_pos (c := read.mode = .setup) hsetup).trans (if_pos (hfaults.trans hpass))
  obtain ⟨t, hnext, hblocks, hpending, ht⟩ := command_next h (mode_accepted b s.mode) hact
  have hnoted : Noted read (setRisenLevels read entered) :=
    noted_setRisenLevels fun e he => flagged_enterMode (flagged_raiseMode_of_flagged he)
  have hkept : ∀ e, Flagged e entered → Flagged e t := by
    intro e he
    rw [ht]
    exact flagged_setPending (flagged_setIfRisen_of_flagged _ _ _ (flagged_setIfRisen_of_flagged _ _ _
      (flagged_setIfRisen_of_flagged _ _ _ he)))
  have hrisen : ∀ e, levelCondition e read = false → levelCondition e entered = true → Flagged e t := by
    intro e hold hnew
    rw [ht]
    exact flagged_setPending ((hnoted e).2 hold ((levelCondition_setRisenLevels e read entered).trans hnew))
  have hdispatcher : t.dispatcher = entered.dispatcher := (congrArg State.dispatcher hblocks :)
  have hcuts : entered.dispatcher.cuts = [⟨s.dispatcher.nextSeq, start, .head, none, none, .queued⟩] := by
    rw [enterMode_dispatcher]
    show s.dispatcher.cuts ++ _ = _
    rw [hempty]
    rfl
  obtain ⟨hmode, hswitch⟩ := enterMode_mode mode read
  have htravel : t.travel = entered.travel := (congrArg State.travel hblocks :)
  obtain ⟨hahead, hreached⟩ := enterMode_deadline mode read
  have hproduction : t.production = s.production := (congrArg State.production hblocks :).trans (enterMode_production _ _)
  have hframe := enterMode_travel_frame mode read
  refine ⟨t, hnext, (congrArg State.mode hblocks :).trans hmode, (congrArg State.switch hblocks :).trans hswitch,
    (congrArg State.planner hblocks :).trans (enterMode_planner _ _), hdispatcher ▸ hcuts, ?_, ?_, ?_, ?_, ?_, ?_, ?_, ?_,
    hpending.trans (congrArg (Response.mk · _) (by decide : statusWord 0x30 .done .none = 0x3000)), ?_,
    (congrArg State.conf hblocks :).trans (enterMode_conf _ _),
    (congrArg State.map hblocks :).trans (enterMode_map _ _), hproduction,
    (congrArg State.grader hblocks :).trans (enterMode_grader _ _),
    (congrArg State.accounts hblocks :).trans (enterMode_accounts _ _), ?_,
    (congrArg State.intake hblocks :).trans (enterMode_intake _ _), ?_⟩
  · rw [hdispatcher, enterMode_dispatcher]
    rfl
  · rw [htravel]
    exact hahead
  · rw [htravel]
    exact hreached
  · exact (enterMode_follows mode (s := read) hempty).congr (congrArg (fun u : State => u.dispatcher.cuts) hblocks :)
      (congrArg (fun u : State => u.travel.expiry) hblocks :) (congrArg (fun u : State => u.travel.expiryRaised) hblocks :)
      (congrArg State.conf hblocks :) (congrArg (fun u : State => u.travel.p) hblocks :)
  · exact fun l => flags_of_flagged (hkept (.mode l) (flagged_enterMode (flagged_mode l read)))
  · refine flags_of_flagged (hrisen .ready ?_ ?_)
    · show read.dispatcher.cuts.any _ = false
      rw [show read.dispatcher.cuts = [] from hempty]
      rfl
    · show entered.dispatcher.cuts.any _ = true
      rw [hcuts]
      rfl
  · intro hrun hnone
    refine flags_of_flagged (hrisen .starved ?_ ?_)
    · show (s.mode == .run && _) = false
      rw [hsetup]
      rfl
    · have hentered : entered.production = s.production := enterMode_production mode read
      show (entered.mode == .run && (activeOrder entered.production.orders).isNone) = true
      rw [hmode, hentered, hrun, hnone]
      rfl
  · intro harmed hdistance hfall
    obtain ⟨hflagged, hdisarmed⟩ := enterMode_stale (m := mode) (s := read) harmed hdistance hfall
    refine ⟨flags_of_flagged (hkept .stale hflagged), ?_⟩
    rw [ht]
    show (setRisenLevels read entered).links.staleArmed = false
    rw [setRisenLevels_links]
    exact hdisarmed
  · rw [htravel]
    exact (congrArg Travel.p hframe :)
  · exact (congrArg State.recipes hblocks :).trans (congrArg State.recipes (enterMode_frame mode read) :)
  · exact (congrArg State.refs hblocks :).trans (congrArg State.refs (enterMode_frame mode read) :)

end Sys2Proof.Proofs.Entering
end

section
/-!
Line clear: MODE SETUP in RUN or CULL, and RESTART (R185, R186).
-/

namespace Sys2Proof.Proofs.LineClear

open Sys2Proof Sys2Proof.Machine Sys2Proof.Proofs.Setup Sys2Proof.Proofs.Accepted Sys2Proof.Proofs.AccountsCommands

/-! ## The part that line clear leaves -/

/-- The part after a line clear into SETUP, with its links and its order list. -/
def forgotten (s : State) (links : Links) (orders : List Order) : State :=
  { lineClear { s with mode := .setup, switch := none } with
    links := links
    production := { s.production.lineClear with orders := orders } }

/-- The order list with no plates in flight. -/
def unreserved (orders : List Order) : List Order := orders.map fun o => { o with inFlight := 0 }

/-- The links after a mode change to SETUP: FLUSH, and MODE on all three. -/
def flushedLinks (ls : Links) : Links :=
  { ls with
    gantry := { ls.gantry with flags := ls.gantry.flags ||| 128 }
    cutter := { ls.cutter with flags := ls.cutter.flags ||| 4 ||| 128 }
    supervisor := { ls.supervisor with flags := ls.supervisor.flags ||| 128 } }

theorem unreserved_inFlight {orders : List Order} {o : Order} (h : o ∈ unreserved orders) : o.inFlight = 0 := by
  obtain ⟨o', -, rfl⟩ := List.mem_map.mp h
  rfl

section
variable (s : State)

theorem returnToSetup_of_ribbon (h : s.mode ≠ .setup) :
    returnToSetup s = forgotten s (flushedLinks s.links) (unreserved s.production.orders) := by
  unfold returnToSetup
  exact if_neg h

theorem restart_eq : restart s = forgotten s (returnToSetup s).links.restart [] := by
  unfold restart returnToSetup
  simp only
  split <;> rfl

theorem returnToSetup_staleArmed : (returnToSetup s).links.staleArmed = s.links.staleArmed := by
  unfold returnToSetup
  simp only
  split <;> rfl

theorem ribbonEmpty_forgotten {links : Links} {orders : List Order} (h : ∀ o ∈ orders, o.inFlight = 0) :
    RibbonEmpty (forgotten s links orders) :=
  (ribbonEmpty_iff _).mpr (clear_lineClear (s := s) rfl rfl rfl ⟨rfl, h⟩ rfl rfl rfl rfl)

/-- A line clear makes no level condition rise. -/
theorem setRisenLevels_forgotten (links : Links) (orders : List Order) :
    setRisenLevels s (forgotten s links orders) = forgotten s links orders :=
  setRisenLevels_of_same (fun hready => nomatch hready) id (fun hstarved => nomatch hstarved)

end

/-! ## The two commands -/

/-- What RESTART does on the supervisor link. -/
def restartAct (b : Body) (s : State) : State × Response :=
  let entry := supervisorEntry 0x41 anyMode 0
  match entry.refusal .supervisor b s.mode with
  | some why => (s, (Reply.refused why).response entry.code)
  | none => (restart s, Response.empty)

/-- RESTART is accepted in every mode. -/
theorem restartAct_eq (b : Body) (s : State) : restartAct b s = (restart s, Response.empty) := by
  have hpasses : (supervisorEntry 0x41 anyMode 0).refusal .supervisor b s.mode = none :=
    passes_supervisor rfl (Nat.zero_le _)
  unfold restartAct
  simp only [hpasses]

section
variable {s : State} (h : Working s) (b : Body)
include h

theorem exec_modeSetup (hmode : s.mode ≠ .setup) :
    exec (.modeSetup .supervisor b) s =
      .next
        (transferred .supervisor b 0x30 (Reply.done [0, 0])
          (forgotten s (flushedLinks s.links) (unreserved s.production.orders))) := by
  let read := shiftOut .supervisor (b.data.length + 1) s
  have hact : modeAct 0 read =
      (forgotten read (flushedLinks read.links) (unreserved read.production.orders), Reply.done [0, 0]) := by
    rw [← returnToSetup_of_ribbon read hmode]
    refine (if_neg (c := read.mode = .setup) hmode).trans ?_
    rw [returnToSetup_of_ribbon read hmode]
    rfl
  refine (command_accepted h (mode_accepted b s.mode) (modeAct 0)).trans ?_
  rw [hact, setRisenLevels_forgotten]
  rfl

theorem exec_restart (arg : Byte) :
    exec (.restart .supervisor arg b) s =
      .next
        (setPending .supervisor Response.empty
          (forgotten s (returnToSetup (shiftOut .supervisor (b.data.length + 1) s)).links.restart [])) := by
  let read := shiftOut .supervisor (b.data.length + 1) s
  refine (transfer_of_working h .supervisor b (restartAct b)).trans ?_
  rw [restartAct_eq, restart_eq read, setRisenLevels_forgotten]
  rfl

end

/-- A link with no flag set is not asserted. -/
theorem attention_of_no_flags {s : State} {l : Link} (h : (s.link l).flags = 0) : s.attention l = false := by
  simp [State.attention, h]

/-- Settles O46. -/
theorem lineClearForgetsTheRibbon : Obligations.LineClearForgetsTheRibbon := by
  intro s arg b h cleared
  have hcleared : ∀ (links : Links) (orders : List Order), links.staleArmed = s.links.staleArmed →
      (∀ o ∈ orders, o.inFlight = 0) → cleared (forgotten s links orders) := fun links orders hstale horders =>
    ⟨ribbonEmpty_forgotten s horders, rfl, rfl, rfl, rfl, rfl, rfl, rfl, rfl, rfl, rfl, rfl, rfl, rfl, rfl, rfl, rfl,
      rfl, rfl, rfl, rfl, rfl, rfl, rfl, rfl, rfl, rfl, rfl, rfl, rfl, rfl, hstale⟩
  refine ⟨fun hmode => ⟨_, exec_modeSetup h b hmode, ?_, rfl, rfl, rfl, rfl, ?_, rfl, rfl, ?_⟩,
    _, exec_restart h b arg, ?_, rfl, ?_⟩
  · exact hcleared (Links.set _ .supervisor _) _ rfl fun _ => unreserved_inFlight
  · intro l
    cases l <;> rfl
  · exact congrArg (Response.mk · _) (by decide : statusWord 0x30 .done .none = 0x3000)
  · exact hcleared (Links.set _ .supervisor _) [] (returnToSetup_staleArmed _) fun o ho => nomatch ho
  · intro l
    refine ⟨?_, ?_, ?_, attention_of_no_flags ?_⟩ <;> cases l <;> rfl

end Sys2Proof.Proofs.LineClear
end

section
/-!
A transfer shifts out the response that was pending (R19). Nothing that is due before a transfer, and no effect of a command,
writes what a link has shifted out; the responses that are pending are written at the end of a transfer alone.
-/

namespace Sys2Proof.Proofs.Shifting

open Sys2Proof Sys2Proof.Machine Sys2Proof.Proofs.Steps Sys2Proof.Proofs.Frames Sys2Proof.Proofs.Blocks
  Sys2Proof.Proofs.Accepted Sys2Proof.Proofs.Entering

/-! ## The words of the links -/

/-- Every link has shifted out the same words in `t` as in `s`, and has the same response pending. -/
def SameWords (s t : State) : Prop :=
  ∀ l, (t.link l).shifted = (s.link l).shifted ∧ (t.link l).pending = (s.link l).pending

theorem SameWords.refl (s : State) : SameWords s s := fun _ => ⟨rfl, rfl⟩

theorem SameWords.trans {s u t : State} (hsu : SameWords s u) (hut : SameWords u t) : SameWords s t := fun l =>
  ⟨(hut l).1.trans (hsu l).1, (hut l).2.trans (hsu l).2⟩

theorem sameWords_of_links {s t : State} (h : t.links = s.links) : SameWords s t := fun l =>
  ⟨congrArg (fun ls : Links => (ls.get l).shifted) h, congrArg (fun ls : Links => (ls.get l).pending) h⟩

/-- A link's flags and mask are not among its words. -/
theorem sameWords_setLink {s : State} {l : Link} {x : LinkState} (hshifted : x.shifted = (s.link l).shifted)
    (hpending : x.pending = (s.link l).pending) : SameWords s (s.setLink l x) := by
  intro k
  by_cases hk : k = l
  · subst hk
    rw [link_setLink]
    exact ⟨hshifted, hpending⟩
  · rw [link_setLink_ne s hk]
    exact ⟨rfl, rfl⟩

/-- The STALE arm state is not among the words of a link. -/
theorem sameWords_of_staleArmed (armed : Bool) (s : State) :
    SameWords s { s with links := { s.links with staleArmed := armed } } := fun l => by
  cases l <;> exact ⟨rfl, rfl⟩

theorem sameWords_raise (e : Event) (s : State) : SameWords s (raise e s) := sameWords_setLink rfl rfl

theorem sameWords_setIfRisen (e : Event) (before after : Bool) (s : State) : SameWords s (setIfRisen e before after s) := by
  rw [setIfRisen_eq]
  split
  · exact sameWords_raise e s
  · exact .refl s

theorem sameWords_setRisenLevels (old s : State) : SameWords s (setRisenLevels old s) :=
  ((sameWords_setIfRisen _ _ _ s).trans (sameWords_setIfRisen _ _ _ _)).trans (sameWords_setIfRisen _ _ _ _)

theorem sameWords_raiseMode (s : State) : SameWords s (raiseMode s) :=
  ((sameWords_raise _ s).trans (sameWords_raise _ _)).trans (sameWords_raise _ _)

/-! ## What is due -/

theorem sameWords_closeShift (time cause : Nat) (s : State) : SameWords s (closeShift time cause s) :=
  sameWords_raise .shift { s with accounts := (closeShift time cause s).accounts }

theorem sameWords_settleStep (s : State) : SameWords s (settleStep s) := by
  unfold settleStep
  split
  · unfold stepTime accountsStep
    simp only
    split
    · exact sameWords_closeShift _ _ (State.count _ _)
    · exact sameWords_of_links rfl
  · exact .refl s

theorem sameWords_settleStop (s : State) : SameWords s (settleStop s) := by
  unfold settleStop
  split
  · exact sameWords_of_links rfl
  · exact .refl s

theorem sameWords_commitRow (c : Course) (s : State) : SameWords s (commitRow c s) := by
  have hcut : ∀ d : Decided, SameWords s
      (appendCut d.stop d.kind d.pattern (some s.planner.nextRowId) (Taking.placed c d s)) :=
    fun d => sameWords_of_links (appendCut_links _ _ _ _ _)
  rw [Taking.commitRow_eq]
  simp only
  refine SameWords.trans ?_ (sameWords_of_links (armDeadline_links _ _))
  split
  · exact (hcut _).trans (sameWords_raise .blind _)
  · exact hcut _

theorem sameWords_settleHeld (s : State) : SameWords s (settleHeld s) := by
  rcases Taking.settleHeld_cases s with hsame | ⟨c, -, hmade⟩
  · rw [hsame]
    exact .refl s
  · rw [hmade]
    exact (sameWords_commitRow c s).trans (sameWords_setRisenLevels s _)

theorem sameWords_settle (s : State) : SameWords s (settle s) :=
  ((sameWords_settleStop s).trans (sameWords_settleStep _)).trans (sameWords_settleHeld _)

/-! ## The transfer -/

theorem shiftOut_shifted (l : Link) (n : Nat) (s : State) :
    ((shiftOut l n s).link l).shifted = (s.link l).pending.shiftOut n := by rw [shiftOut, link_setLink]

/-- The command of a transfer shifts out the pending response, in the words it reads and those after it. -/
def ShiftsOut (l : Link) (n : Nat) (s : State) (out : Host.Outcome State Fault Refusal) : Prop :=
  ∃ t, out = .next t ∧ (t.link l).shifted = (s.link l).pending.shiftOut n

theorem shiftsOut_transfer {s : State} (hs : s.inReset = false) (l : Link) (b : Body) {act : State → State × Response}
    (hact : ∀ u, ((act u).1.link l).shifted = (u.link l).shifted) :
    ShiftsOut l (b.data.length + 1) s (transfer l b act s) := by
  let read := shiftOut l (b.data.length + 1) (settle s)
  refine ⟨_, congrArg Host.Outcome.next (if_neg (by simp [hs])), ?_⟩
  calc ((setPending l (act read).2 (setRisenLevels read (act read).1)).link l).shifted
      = ((setRisenLevels read (act read).1).link l).shifted := by rw [setPending, link_setLink]
    _ = ((act read).1.link l).shifted := (sameWords_setRisenLevels read _ l).1
    _ = (read.link l).shifted := hact read
    _ = ((settle s).link l).pending.shiftOut (b.data.length + 1) := shiftOut_shifted l _ _
    _ = (s.link l).pending.shiftOut (b.data.length + 1) := by rw [(sameWords_settle s l).2]

theorem shiftsOut_command {s : State} (hs : s.inReset = false) {a : Acceptance} {l : Link} {b : Body}
    {act : State → State × Reply} (hact : ∀ u, SameWords u (act u).1) :
    ShiftsOut l (b.data.length + 1) s (command a l b act s) := by
  refine shiftsOut_transfer hs l b fun u => ?_
  unfold respond
  split
  · rfl
  · exact (hact u l).1

theorem shiftsOut_answer {s : State} (hs : s.inReset = false) {a : Acceptance} {l : Link} {b : Body} {r : State → Reply} :
    ShiftsOut l (b.data.length + 1) s (command a l b (answer r) s) := shiftsOut_command hs SameWords.refl

/-! ## The effects of the gantry's commands -/

theorem sameWords_addSpan (first last : Nat) (cause : SpanCause) (s : State) : SameWords s (addSpan first last cause s) := by
  unfold addSpan
  simp only
  split
  · exact .refl s
  · split
    · exact sameWords_raise .spanMerge { s with map := _ }
    · exact sameWords_of_links rfl

theorem sameWords_dropForFull (s : State) : SameWords s (dropForFull s) :=
  (sameWords_of_links rfl).trans (sameWords_raise .overflow _)

theorem sameWords_takeDetection (t : Taking) (r : RawDetection) : SameWords t.s (takeDetection t r).s := by
  unfold takeDetection
  split
  · exact sameWords_of_links rfl
  · simp only
    split
    · exact (sameWords_dropForFull { t.s with intake := t.s.intake.receive }).trans (sameWords_addSpan _ _ _ _)
    · exact sameWords_of_links rfl

theorem sameWords_takeSample (t : Taking) (r : RawSample) : SameWords t.s (takeSample t r).s := by
  unfold takeSample
  split
  · exact sameWords_of_links rfl
  · split
    · exact sameWords_dropForFull { t.s with intake := t.s.intake.receive }
    · exact sameWords_of_links rfl

theorem sameWords_foldl {ρ : Type} {f : Taking → ρ → Taking} (hf : ∀ t r, SameWords t.s (f t r).s) (rs : List ρ)
    (t : Taking) : SameWords t.s (rs.foldl f t).s := by
  induction rs generalizing t with
  | nil => exact .refl t.s
  | cons r rs ih => exact (hf t r).trans (ih (f t r))

theorem sameWords_det (n : Nat) (ws : List Word) (s : State) : SameWords s (det n ws s).1 := by
  unfold det
  split
  · exact .refl s
  · exact sameWords_foldl sameWords_takeDetection _ ⟨s, 0, false, false⟩

theorem sameWords_bkg (n : Nat) (ws : List Word) (s : State) : SameWords s (bkg n ws s).1 := by
  unfold bkg
  split
  · exact .refl s
  · exact sameWords_foldl sameWords_takeSample _ ⟨s, 0, false, false⟩

theorem sameWords_markAt (p : Nat) (s : State) : SameWords s (markAt p s).1 := by
  unfold markAt
  split
  · exact .refl s
  · exact sameWords_of_links rfl

theorem sameWords_gapOver (cause first last : Nat) (s : State) : SameWords s (gapOver cause first last s).1 := by
  unfold gapOver
  split
  · exact .refl s
  · split
    · exact .refl s
    · split
      · exact .refl s
      · exact sameWords_of_links rfl

/-! ## The effects of the cutter's commands -/

theorem sameWords_expireHead (c : Cut) (rest : List Cut) (s : State) : SameWords s (expireHead c rest s) := by
  have hlost : (loseHead c rest s).links = s.links := (congrArg State.links (loseHead_frame c rest s) :)
  exact (sameWords_of_links hlost).trans (sameWords_raise .expired _)

theorem sameWords_expirePassed (fuel : Nat) : ∀ s, SameWords s (expirePassed fuel s) := by
  induction fuel with
  | zero => exact SameWords.refl
  | succ fuel ih =>
    intro s
    unfold expirePassed
    split
    next c rest _ =>
      split
      · have hexpired : SameWords s (asEvent (expireHead c rest) s) :=
          (sameWords_expireHead c rest s).trans (sameWords_setRisenLevels s _)
        exact (hexpired.trans (sameWords_settleHeld _)).trans (ih _)
      · exact .refl s
    next => exact .refl s

theorem sameWords_takeCut (s : State) : SameWords s (takeCut s).1 := by
  refine (sameWords_expirePassed (s.dispatcher.cuts.length + 2) s).trans ?_
  unfold takeCut issueCut
  split
  · exact .refl _
  · split
    · exact .refl _
    · exact sameWords_of_links rfl

theorem sameWords_doneHead (c : Cut) (rest : List Cut) (o : CutOutcome) (s : State) :
    SameWords s (doneHead c rest o s).1 := by
  unfold doneHead
  split
  · exact .refl s
  · split
    · exact sameWords_of_links (congrArg State.links (executeHead_frame c rest _ s) :)
    · exact sameWords_of_links (congrArg State.links (missHead_frame c rest s) :)

theorem sameWords_doneCut (arg : Byte) (ws : List Word) (s : State) : SameWords s (doneCut arg ws s).1 := by
  unfold doneCut
  split
  · unfold doneSeq
    split
    next c rest _ =>
      split
      · split
        · exact sameWords_doneHead c rest _ s
        · exact .refl s
      · split <;> exact .refl s
    next => exact .refl s
  · exact .refl s

theorem sameWords_readRoutes (n : Nat) (s : State) : SameWords s (readRoutes n s).1 := by
  unfold readRoutes
  simp only
  split
  · exact .refl s
  · split
    · exact .refl s
    · exact sameWords_of_links rfl

/-! ## The effects of the supervisor's commands -/

theorem sameWords_evaluateStale (s : State) : SameWords s (evaluateStale s) := by
  unfold evaluateStale
  split
  · exact (sameWords_of_staleArmed false s).trans (sameWords_raise .stale _)
  · exact .refl s

theorem sameWords_enterMode (m : Mode) (s : State) : SameWords s (enterMode m s) := by
  have hentered : SameWords s (enterPlanner (raiseMode { s with mode := m, switch := none })) :=
    (sameWords_raiseMode { s with mode := m, switch := none }).trans (sameWords_of_links (enterPlanner_links _))
  exact hentered.trans (sameWords_evaluateStale _)

theorem sameWords_returnToSetup (s : State) : SameWords s (returnToSetup s) := by
  have hcleared : SameWords s (lineClear { s with mode := .setup, switch := none }) :=
    (sameWords_of_links rfl).trans (sameWords_raise .flush _)
  unfold returnToSetup
  simp only
  split
  · exact hcleared
  · exact hcleared.trans (sameWords_raiseMode _)

theorem sameWords_requestMode (m : Mode) (s : State) : SameWords s (requestMode m s).1 := by
  unfold requestMode requestEntry
  split
  · split
    · exact sameWords_enterMode m s
    · exact .refl s
  · exact sameWords_of_links rfl

theorem sameWords_modeAct (arg : Byte) (s : State) : SameWords s (modeAct arg s).1 := by
  unfold modeAct
  split
  · unfold requestSetup
    split
    · exact .refl s
    · exact sameWords_returnToSetup s
  · exact sameWords_requestMode .run s
  · exact sameWords_requestMode .cull s
  · exact .refl s
  · exact .refl s

/-- RESTART empties the pending responses, and leaves what the links have shifted out. -/
theorem restart_shifted (l : Link) (s : State) : ((restart s).link l).shifted = (s.link l).shifted := by
  have hreturned : ((restart s).link l).shifted = ((returnToSetup s).link l).shifted := by cases l <;> rfl
  exact hreturned.trans (sameWords_returnToSetup s l).1

theorem sameWords_setTime (seconds : Nat) (s : State) : SameWords s (setTime seconds s).1 := by
  unfold setTime
  split
  · exact .refl s
  · exact sameWords_of_links rfl

theorem sameWords_writeShifts (ws : List Word) (s : State) : SameWords s (writeShifts ws s).1 := by
  unfold writeShifts
  split
  · exact .refl s
  · split
    · exact .refl s
    · exact sameWords_of_links rfl

theorem sameWords_writePattern (arg : Byte) (k : Nat) (columns : List Across) (s : State) :
    SameWords s (writePattern arg k columns s).1 := by
  unfold writePattern
  simp only
  split
  · exact .refl s
  · split
    · exact .refl s
    · split
      · exact .refl s
      · split
        · exact .refl s
        · exact sameWords_of_links rfl

theorem sameWords_addOrder (arg : Byte) (ws : List Word) (s : State) : SameWords s (addOrder arg ws s).1 := by
  unfold addOrder
  simp only
  split
  · exact .refl s
  · split
    · exact .refl s
    · split
      · exact .refl s
      · split
        · exact .refl s
        · split <;> exact sameWords_of_links rfl

theorem sameWords_closeOrder (id : Nat) (s : State) : SameWords s (closeOrder id s).1 := by
  unfold closeOrder
  split
  · exact sameWords_of_links rfl
  · exact .refl s

theorem sameWords_dropOrder (id : Nat) (s : State) : SameWords s (dropOrder id s).1 := by
  unfold dropOrder
  split
  · split
    · exact .refl s
    · exact sameWords_of_links rfl
  · exact .refl s

theorem sameWords_requestSample (asked : Nat) (s : State) : SameWords s (requestSample asked s).1 := by
  unfold requestSample
  simp only
  split
  · exact .refl s
  · split
    · exact .refl s
    · exact sameWords_of_links rfl

theorem sameWords_cancelSample (m : Nat) (s : State) : SameWords s (cancelSample m s).1 := by
  unfold cancelSample
  split
  · exact sameWords_of_links rfl
  · exact .refl s

theorem sameWords_writeRecipe (sec : Option Nat) (ws : List Word) (s : State) : SameWords s (writeRecipe sec ws s).1 := by
  unfold writeRecipe
  split
  · exact .refl s
  · split
    · exact .refl s
    · split
      · exact sameWords_of_links rfl
      · exact .refl s

theorem sameWords_promote (s : State) : SameWords s (promote s) :=
  (sameWords_of_links rfl).trans (sameWords_raise .recipe _)

theorem sameWords_promotionTest (s : State) : SameWords s (promotionTest s) := by
  unfold promotionTest
  split
  · split
    · exact sameWords_promote s
    · exact .refl s
  · exact .refl s

theorem sameWords_armAt (asked : Nat) (s : State) : SameWords s (armAt asked s).1 := by
  unfold armAt
  split
  · exact .refl s
  · split
    · exact sameWords_promote s
    · exact (sameWords_of_links (t := armRecipe (max asked s.map.w) s) rfl).trans (sameWords_promotionTest _)

theorem shiftsOut_conf {s : State} (hs : s.inReset = false) (item : ConfItem) (l : Link) (b : Body) :
    ShiftsOut l (b.data.length + 1) s (confCommand item l b s) := by
  refine shiftsOut_command hs fun u => ?_
  unfold confAct
  split
  · exact sameWords_of_links rfl
  · exact .refl u

theorem shiftsOut_confListed {s : State} (hs : s.inReset = false) (arg : Byte) (l : Link) (b : Body) :
    ShiftsOut l (b.data.length + 1) s (confListed arg l b s) := by
  unfold confListed
  split
  · exact shiftsOut_conf hs _ l b
  · exact shiftsOut_answer hs

theorem shiftsOut_restart {s : State} (hs : s.inReset = false) (l : Link) (arg : Byte) (b : Body) :
    ShiftsOut l (b.data.length + 1) s (execRestart l arg b s) := by
  unfold execRestart
  refine shiftsOut_transfer hs l b fun u => ?_
  split
  · rfl
  · exact restart_shifted l u

theorem shiftsOut_rcpArm {s : State} (hs : s.inReset = false) (l : Link) (arg : Byte) (b : Body) :
    ShiftsOut l (b.data.length + 1) s (execRcpArm l arg b s) := by
  refine shiftsOut_command hs fun u => ?_
  split
  · exact sameWords_armAt _ u
  · exact .refl u

theorem shiftsOut_emptyTransfer {s : State} (hs : s.inReset = false) (l : Link) (tail : Nat) :
    ShiftsOut l 0 s (execEmptyTransfer l tail s) := by
  refine ⟨shiftOut l 0 (settle s), congrArg Host.Outcome.next (if_neg (by simp [hs])), ?_⟩
  rw [shiftOut_shifted, (sameWords_settle s l).2]

theorem shiftsOut_unknownCommand {s : State} (hs : s.inReset = false) (l : Link) {code : Byte} (arg : Byte) (b : Body)
    (hcode : codeDefined code = false) : ShiftsOut l (b.data.length + 1) s (execUnknownCommand l code arg b s) := by
  unfold execUnknownCommand
  rw [if_neg (by simp [hcode])]
  exact shiftsOut_transfer hs l b fun _ => rfl

/-! ## Every command -/

/-- Every command that a master sends shifts out the pending response of its link. -/
theorem shiftsOut_exec {s : State} (hs : s.inReset = false) {i : Instr} {tr : Transfer} (hw : WellFormed i = true)
    (he : encode i = some tr) : ShiftsOut tr.link tr.words.length s (exec i s) := by
  cases i <;> simp only [encode, Option.some.injEq, reduceCtorEq] at he <;> subst he
  case emptyTransfer l tail => exact shiftsOut_emptyTransfer hs l tail
  case unknownCommand l code arg b =>
    simp only [WellFormed, Instr.argWf, Bool.and_eq_true, Bool.not_eq_true'] at hw
    exact shiftsOut_unknownCommand hs l arg b hw.1
  case nop | pos | cstat | shiftsRead | report | patRead | ordRead | rcpRead | sampleRead | flaw | plate | window =>
    exact shiftsOut_answer hs
  case evt => exact shiftsOut_command hs fun _ => sameWords_setLink rfl rfl
  case mask => exact shiftsOut_command hs fun _ => sameWords_setLink rfl rfl
  case det => exact shiftsOut_command hs (sameWords_det _ _)
  case bkg => exact shiftsOut_command hs (sameWords_bkg _ _)
  case mark => exact shiftsOut_command hs (sameWords_markAt _)
  case gap => exact shiftsOut_command hs (sameWords_gapOver _ _ _)
  case gstat => exact shiftsOut_command hs fun _ => sameWords_of_links rfl
  case take => exact shiftsOut_command hs sameWords_takeCut
  case doneOk | doneMissed => exact shiftsOut_command hs (sameWords_doneCut _ _)
  case route => exact shiftsOut_command hs (sameWords_readRoutes _)
  case modeRead | modeRun | modeCull | modeSetup => exact shiftsOut_command hs (sameWords_modeAct _)
  case restart l arg b => exact shiftsOut_restart hs l arg b
  case time => exact shiftsOut_command hs (sameWords_setTime _)
  case shiftsWrite => exact shiftsOut_command hs (sameWords_writeShifts _)
  case shiftClose => exact shiftsOut_command hs fun _ => sameWords_closeShift _ _ _
  case patWrite => exact shiftsOut_command hs (sameWords_writePattern _ _ _)
  case ordAdd => exact shiftsOut_command hs (sameWords_addOrder _ _)
  case ordClose => exact shiftsOut_command hs (sameWords_closeOrder _)
  case ordDrop => exact shiftsOut_command hs (sameWords_dropOrder _)
  case rcpWriteKind | rcpWriteLimits | rcpWritePolicy | rcpCopy => exact shiftsOut_command hs (sameWords_writeRecipe _ _)
  case rcpArm l arg b => exact shiftsOut_rcpArm hs l arg b
  case rcpDisarm => exact shiftsOut_command hs fun _ => sameWords_of_links rfl
  case sampleRequest => exact shiftsOut_command hs (sameWords_requestSample _)
  case sampleCancel => exact shiftsOut_command hs (sameWords_cancelSample _)
  case confLaneExtent l arg b => exact shiftsOut_confListed hs arg l b
  case confDestination l arg b => exact shiftsOut_confListed hs arg l b
  all_goals exact shiftsOut_conf hs _ _ _

/-- Settles O13. -/
theorem transferShiftsOutThePendingResponse : Obligations.TransferShiftsOutThePendingResponse :=
  fun _ _ _ hs hw he => shiftsOut_exec hs hw he

end Sys2Proof.Proofs.Shifting
end
